-- ==== Sys2Proof/Word.lean ====
section
/-! DEFINITION. The words and the three formats of the block (spec/30_encoding.md rules R60 to R62):
the operation-select word, the input event and the output record, as plain data. -/

namespace Sys2Proof

/-- The 8-bit accumulator and payload width (rules R21, R62). -/
abbrev Byte := BitVec 8

/-- The 11-bit operation-select word `OSW` (rule R63). -/
abbrev Osw := BitVec 11

/-- Direction of a transition (rule R61). -/
inductive Dir where
  /-- high to low -/
  | fall
  /-- low to high -/
  | rise
  deriving DecidableEq, Repr

/-- Format `EDGE`, the input event `edge(dir, idx)` (rule R61). A sample index is a natural number,
unbounded (rules R10, R34; decision D5). -/
structure Edge where
  dir : Dir
  idx : Nat
  deriving DecidableEq, Repr

/-- The nine annotation kinds, in the order the source lists them (rules R72, R74). -/
inductive Kind where
  | low
  | high
  | attention
  | reset
  | bit
  | byte
  | start
  | stop
  | serviceRequest
  deriving DecidableEq, Repr

/-- The three annotation rows of the sink (rule R75). -/
inductive AnnRow where
  | cells
  | bits
  | bytes
  deriving DecidableEq, Repr

/-- Format `ANN`, the output record (rule R62). `value` is the payload of `Bit` and `Byte`, 0 for
every other kind (rules R62, R76). -/
structure Ann where
  kind : Kind
  startSample : Nat
  endSample : Nat
  value : Byte
  deriving DecidableEq, Repr

/-- What the environment hands the block, in order: the host starts a pass with a sample rate
(rule R190; 0 stands for no rate supplied, rule R28), or the edge source delivers an event
(rule R41). -/
inductive Input where
  | start (fs : Nat)
  | edge (e : Edge)
  deriving DecidableEq, Repr

/-- `label_variants`: a non-empty list of strings, from most to least detailed (rule R77). -/
structure LabelVariants where
  most : String
  others : List String
  deriving DecidableEq, Repr, Inhabited

end Sys2Proof
end

