-- ==== Sys2Proof/Syntax.lean ====
section
/-! DEFINITION. The operations of the block as a type: one constructor per row of
spec/opcode_table.json, in the table's order (spec/30_encoding.md rule R70). -/

namespace Sys2Proof

/-- An operation. `SEQ.SKIP` has three rows, so three constructors. The argument `g` of the three
bit-cell operations is the operand bit `G` (rule R66): the low phase is the longer one. The event
`edge(dir, idx)`, the other operand of every operation, is not in the select word; the meaning takes
it from the input stream. -/
inductive Instr where
  /-- `SEQ.SYNC`, rule R100 -/
  | seqSync
  /-- `SEQ.SKIP` in phase SYNC, rising edge, rule R101 -/
  | seqSkipSync
  /-- `SEQ.SKIP` in phase LOW, falling edge, rule R101 -/
  | seqSkipLow
  /-- `SEQ.SKIP` in phase HIGH, rising edge, rule R101 -/
  | seqSkipHigh
  /-- `SEQ.DEAD`, rule R102 -/
  | seqDead
  /-- `LOW.SHORT`, rule R110 -/
  | lowShort
  /-- `LOW.RESET`, rule R111 -/
  | lowReset
  /-- `LOW.ATTN`, rule R112 -/
  | lowAttn
  /-- `LOW.SRQ`, rule R113 -/
  | lowSrq
  /-- `HIGH.BIT`, rule R120 -/
  | highBit (g : Bool)
  /-- `HIGH.BITSTART`, rule R121 -/
  | highBitstart (g : Bool)
  /-- `HIGH.BITBYTE`, rule R122 -/
  | highBitbyte (g : Bool)
  /-- `HIGH.STOPCELL`, rule R123 -/
  | highStopcell
  /-- `HIGH.START`, rule R124 -/
  | highStart
  /-- `HIGH.STOPIDLE`, rule R125 -/
  | highStopidle
  /-- `HIGH.IDLE`, rule R126 -/
  | highIdle
  deriving DecidableEq, Repr

end Sys2Proof
end

