-- ==== Sys2Proof/WellFormed.lean ====
section
/-! DEFINITION. Which terms of the formats are well formed: every operation (no select word is
illegal, spec/30_encoding.md rule R71), the records rule R62 allows, and the event sequences of
spec/10_state.md rule R31. -/

namespace Sys2Proof

/-- Every operation is well formed: its one operand is a single bit, and rule R71 calls no word
illegal or reserved. -/
def Instr.wellFormed : Instr → Bool
  | .seqSync | .seqSkipSync | .seqSkipLow | .seqSkipHigh | .seqDead => true
  | .lowShort | .lowReset | .lowAttn | .lowSrq => true
  | .highBit _ | .highBitstart _ | .highBitbyte _ => true
  | .highStopcell | .highStart | .highStopidle | .highIdle => true

/-- The payload rule of R62 and R76: a bit for `Bit`, any byte for `Byte`, 0 otherwise. -/
def Ann.payloadOk (a : Ann) : Bool :=
  match a.kind with
  | .bit => a.value == 0 || a.value == 1
  | .byte => true
  | .low | .high | .attention | .reset | .start | .stop | .serviceRequest => a.value == 0

/-- A record rule R62 allows: `start ≤ end` and the payload of its kind. -/
def Ann.wellFormed (a : Ann) : Bool :=
  Nat.ble a.startSample a.endSample && a.payloadOk

/-- The input precondition of rule R31: the `idx` of each event is at least the previous one's. -/
def edgesOrdered : List Edge → Bool
  | [] => true
  | [_] => true
  | e :: f :: rest => Nat.ble e.idx f.idx && edgesOrdered (f :: rest)

end Sys2Proof
end

