-- ==== Sys2Proof/Decode.lean ====
section
/-! DEFINITION. The operation-select word: its fields, the decoder, the encoder and the operation
table (spec/30_encoding.md rules R63, R68 to R71; spec/opcode_table.json). -/

namespace Sys2Proof

/-- Field `P`, bits 10 and 9 (rule R63). -/
def Osw.p (w : Osw) : BitVec 2 := w.extractLsb' 9 2

/-- Field `D`, bit 8: true for a rising edge (rules R61, R63). -/
def Osw.d (w : Osw) : Bool := w.getLsbD 8

/-- Field `A`, bit 7: low short. -/
def Osw.a (w : Osw) : Bool := w.getLsbD 7

/-- Field `B`, bit 6: low reset. -/
def Osw.b (w : Osw) : Bool := w.getLsbD 6

/-- Field `Q`, bit 5: service-request position. -/
def Osw.q (w : Osw) : Bool := w.getLsbD 5

/-- Field `H`, bit 4: high short. -/
def Osw.h (w : Osw) : Bool := w.getLsbD 4

/-- Field `T`, bit 3: the cell is a bit cell. -/
def Osw.t (w : Osw) : Bool := w.getLsbD 3

/-- Field `M`, bit 2: counter idle. -/
def Osw.m (w : Osw) : Bool := w.getLsbD 2

/-- Field `Z`, bit 1: the byte completes. -/
def Osw.z (w : Osw) : Bool := w.getLsbD 1

/-- Field `G`, bit 0: low phase longer. -/
def Osw.g (w : Osw) : Bool := w.getLsbD 0

/-- The select word with these fields, bit 10 on the left (rule R63). -/
def Osw.pack (p : BitVec 2) (d a b q h t m z g : Bool) : Osw :=
  p ++ BitVec.ofBool d ++ BitVec.ofBool a ++ BitVec.ofBool b ++ BitVec.ofBool q ++
    BitVec.ofBool h ++ BitVec.ofBool t ++ BitVec.ofBool m ++ BitVec.ofBool z ++ BitVec.ofBool g

/-- The operation of a select word in phase LOW at a rising edge: `A` first, then `B`, then `Q`
(rule R69). -/
def decodeLow (w : Osw) : Instr :=
  if w.a then .lowShort
  else if w.b then .lowReset
  else if w.q then .lowSrq
  else .lowAttn

/-- The operation of a select word in phase HIGH at a falling edge: `H` first; under `H`, `T`; under
`T`, `M` before `Z`; otherwise only `A` (rule R69). -/
def decodeHigh (w : Osw) : Instr :=
  if w.h then
    if w.t then
      if w.m then .highBitstart w.g
      else if w.z then .highBitbyte w.g
      else .highBit w.g
    else if w.a then .highStopcell
    else .highStart
  else if w.a then .highStopidle
  else .highIdle

/-- The decoder: total, since no select word is illegal, reserved or trapping (rules R70, R71). -/
def decode (w : Osw) : Instr :=
  if w.p = 0 then (if w.d then .seqSkipSync else .seqSync)
  else if w.p = 1 then (if w.d then decodeLow w else .seqSkipLow)
  else if w.p = 2 then (if w.d then .seqSkipHigh else decodeHigh w)
  else .seqDead

/-- Why a number is no select word. -/
inductive DecodeError where
  /-- bits above bit 10 are set: the word has 11 bits (rule R60) -/
  | widerThanElevenBits
  deriving DecidableEq, Repr

/-- The decoder on any number, rejecting by name what is no 11-bit word. -/
def decodeBits (w : Nat) : Except DecodeError Instr :=
  if w < 2048 then .ok (decode (BitVec.ofNat 11 w)) else .error .widerThanElevenBits

/-- The instruction the decoder reads from `nbits` bits numbered as spec/opcode_table.json numbers
them; bits above `nbits` are 0. -/
def decodeTableWord (nbits w : Nat) : Option Instr :=
  (decodeBits (w % 2 ^ nbits)).toOption

/-- The encoder: the word of an operation with every `x` field 0 (the `match` of its row in
spec/opcode_table.json), and `G` in bit 0 where it is an operand. -/
def encode : Instr → Osw
  | .seqSync => 0b00000000000
  | .seqSkipSync => 0b00100000000
  | .seqSkipLow => 0b01000000000
  | .seqSkipHigh => 0b10100000000
  | .seqDead => 0b11000000000
  | .lowShort => 0b01110000000
  | .lowReset => 0b01101000000
  | .lowAttn => 0b01100000000
  | .lowSrq => 0b01100100000
  | .highBit g => 0b10000011000 ||| (BitVec.ofBool g).zeroExtend 11
  | .highBitstart g => 0b10000011100 ||| (BitVec.ofBool g).zeroExtend 11
  | .highBitbyte g => 0b10000011010 ||| (BitVec.ofBool g).zeroExtend 11
  | .highStopcell => 0b10010010000
  | .highStart => 0b10000010000
  | .highStopidle => 0b10010000000
  | .highIdle => 0b10000000000

/-- The bits of an operation's word that are not `x` in its pattern (the `mask` of its row, with bit
0 added where `G` is an operand; rule R70). -/
def Instr.careMask : Instr → Osw
  | .seqSync | .seqSkipSync | .seqSkipLow | .seqSkipHigh => 0b11100000000
  | .seqDead => 0b11000000000
  | .lowShort => 0b11110000000
  | .lowReset => 0b11111000000
  | .lowAttn | .lowSrq => 0b11111100000
  | .highBit _ | .highBitbyte _ => 0b11100011111
  | .highBitstart _ => 0b11100011101
  | .highStopcell | .highStart => 0b11110011000
  | .highStopidle | .highIdle => 0b11110010000

/-- Every word of an operation: its fixed and operand bits, and any `x` in the other positions. -/
def encodeWith (i : Instr) (x : Osw) : Osw :=
  encode i ||| (x &&& ~~~ i.careMask)

/-- One row of spec/opcode_table.json. `op` gives the operation from the operand bit `G`. -/
structure TableRow where
  mnemonic : String
  pattern : Osw
  mask : Osw
  op : Bool → Instr

/-- A row's pattern fits a word. -/
def TableRow.selects (r : TableRow) (w : Osw) : Bool := w &&& r.mask == r.pattern

/-- The 16 rows of spec/opcode_table.json in the table's order, `match` and `mask` as the table has
them (rule R70). -/
def opcodeTable : List TableRow := [
  ⟨"SEQ.SYNC", 0x000, 0x700, fun _ => .seqSync⟩,
  ⟨"SEQ.SKIP", 0x100, 0x700, fun _ => .seqSkipSync⟩,
  ⟨"SEQ.SKIP", 0x200, 0x700, fun _ => .seqSkipLow⟩,
  ⟨"SEQ.SKIP", 0x500, 0x700, fun _ => .seqSkipHigh⟩,
  ⟨"SEQ.DEAD", 0x600, 0x600, fun _ => .seqDead⟩,
  ⟨"LOW.SHORT", 0x380, 0x780, fun _ => .lowShort⟩,
  ⟨"LOW.RESET", 0x340, 0x7C0, fun _ => .lowReset⟩,
  ⟨"LOW.ATTN", 0x300, 0x7E0, fun _ => .lowAttn⟩,
  ⟨"LOW.SRQ", 0x320, 0x7E0, fun _ => .lowSrq⟩,
  ⟨"HIGH.BIT", 0x418, 0x71E, .highBit⟩,
  ⟨"HIGH.BITSTART", 0x41C, 0x71C, .highBitstart⟩,
  ⟨"HIGH.BITBYTE", 0x41A, 0x71E, .highBitbyte⟩,
  ⟨"HIGH.STOPCELL", 0x490, 0x798, fun _ => .highStopcell⟩,
  ⟨"HIGH.START", 0x410, 0x798, fun _ => .highStart⟩,
  ⟨"HIGH.STOPIDLE", 0x480, 0x790, fun _ => .highStopidle⟩,
  ⟨"HIGH.IDLE", 0x400, 0x790, fun _ => .highIdle⟩]

end Sys2Proof
end

