-- ==== Sys2Proof/Config.lean ====
section
/-! DEFINITION. The constants of the block, each defined once by the spec's name (spec/00_scope.md
rules R7 to R9), and the values the spec leaves open, as constants without a body. -/

namespace Sys2Proof.Config

/-- `T_PHASE`, microseconds: a phase shorter than this is an ordinary bit-cell phase (rule R7). -/
@[simp] abbrev tPhase : Nat := 100

/-- `T_RESET`, microseconds: a low phase longer than this is a global reset (rule R7). -/
@[simp] abbrev tReset : Nat := 1500

/-- `T_CELL`, microseconds: a cell at most this long is a bit cell (rule R7). -/
@[simp] abbrev tCell : Nat := 130

/-- `BITS_PER_BYTE`, the modulus of the byte boundary test (rule R8). -/
@[simp] abbrev bitsPerByte : Int := 8

/-- `SRQ_COUNT`, the `bit_count` that makes a mid-length low a service request (rule R8). -/
@[simp] abbrev srqCount : Int := 8

/-- `BYTE_MASK` (rule R8). -/
@[simp] abbrev byteMask : Byte := 0xFF

/-- `US_PER_S`, microseconds per second (rule R8). -/
@[simp] abbrev usPerS : Nat := 1000000

/-- DESIGN CHOICE (log entry 1), unsafe: the sample rate State.reset holds. The spec gives `FS` no
default and no reset value (rule R6); this is the rate its test vectors assume. -/
def resetFs : Nat := 1000000

/-- Free value (log entry 3), safe: what a read of `byte_s` gives while it has no value (U11). -/
opaque unwrittenByteS : Nat

/-- Free value (log entry 3), safe: what a read of `cell_s` gives while it has no value (U11). -/
opaque unwrittenCellS : Nat

/-- Free value (log entry 3), safe: what a read of `low_e` gives while it has no value (U11). -/
opaque unwrittenLowE : Nat

/-- Free value (log entry 4), safe: `bit_count + 1` after the n-th ConfigError (rule R172, U12); a
natural number, so that `bit_count` keeps the bound of rule R32. -/
opaque faultCount : Nat → Nat

/-- Free value (log entry 4), safe: `byte` after the n-th ConfigError (rule R172, U12). -/
opaque faultByte : Nat → Byte

/-- The open parameter `LABELS` (rule R77, decision D13; log entry 19). No rule reads it. -/
opaque labels : Kind → Byte → LabelVariants

end Sys2Proof.Config
end

