-- ==== Sys2Proof/Machine/State.lean ====
section
/-! DEFINITION. The state of the block (spec/10_state.md rules R20 to R28), the two streams beside
it, the state right after reset, and the reasons a step can stop. -/

namespace Sys2Proof.Machine

/-- The `phase` register: which edge the decode loop waits for (rule R26). -/
inductive Phase where
  /-- pass started, no falling edge seen yet -/
  | sync
  /-- inside a low phase -/
  | low
  /-- inside a high phase -/
  | high
  /-- ConfigError raised; the pass decodes nothing -/
  | fault
  deriving DecidableEq, Repr

/-- The `fault` register (rules R27, R171). -/
inductive FaultCode where
  /-- `NONE` -/
  | noFault
  /-- `ConfigError`: the pass was started without a sample rate -/
  | configError
  deriving DecidableEq, Repr

/-- Reasons the machine stops with a fault: none. The one fault of the block, ConfigError, is a next
state (rule R172), and the block never stops: nothing raises a value of this type. Safe. -/
inductive Fault where
  deriving DecidableEq, Repr

/-- Reasons the machine gives no meaning. -/
inductive Refusal where
  /-- an instruction without a meaning yet, by its mnemonic; raised by no arm of exec. Safe. -/
  | notModelled (mnemonic : String)
  /-- raised by fetching when an event's `idx` is below an index it must not be below: the previous
  event's (rule R181, decision D9), `cell_s` or `low_e` (rule R31). Safe: the spec gives such an
  event no meaning. -/
  | nonMonotonicIndex
  deriving DecidableEq, Repr

/-- The state of the machine. The first eight fields are the spec's configuration and registers;
`lastIdx` is the previous event's index of rule R99; `input` and `out` are the two streams of rule
R34; `freeCount` is the model's own counter of free values. -/
@[ext]
structure State where
  /-- `FS`, the sample rate of this pass; 0 means none was supplied (rules R6, R28). -/
  fs : Nat
  /-- `phase` (rule R26). -/
  phase : Phase
  /-- `fault` (rule R27). -/
  fault : FaultCode
  /-- `byte` (rule R21). -/
  byte : Byte
  /-- `bit_count` (rule R22). -/
  bitCount : Int
  /-- `byte_s`, or no value (rules R23, R36). -/
  byteS : Option Nat
  /-- `cell_s`, or no value (rules R24, R36). -/
  cellS : Option Nat
  /-- `low_e`, or no value (rules R25, R36). -/
  lowE : Option Nat
  /-- index of the previous event of this pass, if any (rules R99, R101). -/
  lastIdx : Option Nat
  /-- what the environment has delivered and the block has not consumed, oldest first (rule R41). -/
  input : List Input
  /-- the records emitted in this pass, in emission order (rules R43, R98). -/
  out : List Ann
  /-- how many free values ConfigError has drawn (the model's own; log entry 5). -/
  freeCount : Nat
  deriving DecidableEq, Repr

/-- Right after reset, that is, pass start with a sample rate (rules R36, R190, R191). DESIGN CHOICE
(log entries 1, 5, 6), unsafe: the rate, the empty input stream and the counter's 0. -/
def State.reset : State where
  fs := Config.resetFs
  phase := .sync
  fault := .noFault
  byte := 0
  bitCount := 0
  byteS := none
  cellS := none
  lowE := none
  lastIdx := none
  input := []
  out := []
  freeCount := 0

end Sys2Proof.Machine
end

