-- ==== Sys2Proof/Machine/TimeBase.lean ====
section
/-! DEFINITION. The time base: sample counts against microsecond thresholds
(spec/40_timebase_and_sequencer.md rules R90 to R93). -/

namespace Sys2Proof.Machine

/-- `to_us`: a sample count in microseconds, exact (rules R90, R91). -/
def toUs (fs d : Nat) : ℚ := (d : ℚ) / ((fs : ℚ) / (Config.usPerS : ℚ))

/-- `us_lt`: `to_us(d) < T` by cross-multiplication (rule R92). -/
def usLt (fs d t : Nat) : Bool := Nat.blt (d * Config.usPerS) (t * fs)

/-- `us_le`: `to_us(d) ≤ T` (rule R92). -/
def usLe (fs d t : Nat) : Bool := Nat.ble (d * Config.usPerS) (t * fs)

/-- `us_gt`: `to_us(d) > T` (rule R92). -/
def usGt (fs d t : Nat) : Bool := Nat.blt (t * fs) (d * Config.usPerS)

end Sys2Proof.Machine
end

