-- ==== Sys2Proof/Machine/Flags.lean ====
section
/-! DEFINITION. The eight predicates of spec/10_state.md rule R30, recomputed in every step and never
stored. -/

namespace Sys2Proof.Machine

/-- `A`, and `H` on the high phase: a phase of `d` samples is short (rules R30, R65). -/
def phaseShort (fs d : Nat) : Bool := usLt fs d Config.tPhase

/-- `B`: a low phase of `d` samples is a global reset (rules R30, R65). -/
def phaseReset (fs d : Nat) : Bool := usGt fs d Config.tReset

/-- `T`: a cell of `d` samples is a bit cell (rules R30, R65). -/
def cellIsBit (fs d : Nat) : Bool := usLe fs d Config.tCell

/-- `Q`: `bit_count = 8` (rules R30, R67). -/
def srqPosition (n : Int) : Bool := n == Config.srqCount

/-- `M`: `bit_count = -1` (rules R30, R67). -/
def counterIdle (n : Int) : Bool := n == -1

/-- `bit_count mod 8 = 0`, with the floor remainder (rules R11, R110). -/
def onByteBoundary (n : Int) : Bool := n % Config.bitsPerByte == 0

/-- `Z`: `(bit_count + 1) mod 8 = 0` (rules R30, R67). -/
def byteCompletes (n : Int) : Bool := onByteBoundary (n + 1)

/-- `G`: the low phase is longer, in samples (rules R30, R66, R96). -/
def lowLonger (dl dh : Nat) : Bool := Nat.blt dh dl

end Sys2Proof.Machine
end

