-- ==== Sys2Proof/Machine/Formats.lean ====
section
/-! DEFINITION. The numeric codes of the formats and registers (spec/10_state.md R26,
spec/30_encoding.md R61, R74, R75, spec/60_exceptions.md R171) and the labels of rule R77. -/

namespace Sys2Proof

/-- `dir` as the bit `D`: 0 = FALL, 1 = RISE (rule R61). -/
def Dir.bit : Dir → Bool
  | .fall => false
  | .rise => true

/-- Kind codes (rule R74, decision D12). -/
def Kind.code : Kind → BitVec 4
  | .low => 0
  | .high => 1
  | .attention => 2
  | .reset => 3
  | .bit => 4
  | .byte => 5
  | .start => 6
  | .stop => 7
  | .serviceRequest => 8

/-- The kind of a code; codes 9 to 15 are unused (rule R72). -/
def Kind.ofCode (c : BitVec 4) : Option Kind :=
  [Kind.low, .high, .attention, .reset, .bit, .byte, .start, .stop, .serviceRequest][c.toNat]?

/-- The row of a kind (rules R74, R75). -/
def Kind.row : Kind → AnnRow
  | .low | .high | .attention | .reset | .serviceRequest => .cells
  | .bit | .start | .stop => .bits
  | .byte => .bytes

/-- Phase codes (rule R26, decision D7). -/
def Machine.Phase.code : Machine.Phase → BitVec 2
  | .sync => 0
  | .low => 1
  | .high => 2
  | .fault => 3

/-- Fault codes (rule R171, decision D14): what the `fault` status port of D2 shows. -/
def Machine.FaultCode.code : Machine.FaultCode → Nat
  | .noFault => 0
  | .configError => 1

/-- One upper-case hexadecimal digit. -/
def hexDigit (n : Nat) : String :=
  ["0", "1", "2", "3", "4", "5", "6", "7", "8", "9", "A", "B", "C", "D", "E", "F"].getD n ""

/-- A byte as two upper-case hexadecimal digits (rule R77). -/
def hexByte (b : Byte) : String := hexDigit (b.toNat / 16) ++ hexDigit (b.toNat % 16)

/-- The default table of `LABELS` (rule R77, decision D13). -/
def defaultLabels (k : Kind) (value : Byte) : LabelVariants :=
  match k with
  | .low => ⟨"Low", ["L"]⟩
  | .high => ⟨"High", ["H"]⟩
  | .attention => ⟨"Attention", ["Attn", "A"]⟩
  | .reset => ⟨"Reset", ["Rst", "R"]⟩
  | .bit => ⟨toString value.toNat, []⟩
  | .byte => ⟨hexByte value, []⟩
  | .start => ⟨"Start", ["S"]⟩
  | .stop => ⟨"Stop", ["T"]⟩
  | .serviceRequest => ⟨"Service Request", ["SRQ", "Q"]⟩

/-- The source's record `(kind, start_sample, end_sample, label_variants)` of a record, under a label
table (rules R13, R62, R77). -/
def Ann.labelled (labels : Kind → Byte → LabelVariants) (a : Ann) :
    Kind × Nat × Nat × LabelVariants :=
  (a.kind, a.startSample, a.endSample, labels a.kind a.value)

/-- The record as the sink of this configuration gets it, with the open parameter `LABELS`. -/
def Ann.forSink (a : Ann) : Kind × Nat × Nat × LabelVariants := a.labelled Config.labels

end Sys2Proof
end

