-- ==== Sys2Proof/Machine/Operands.lean ====
section
/-! DEFINITION. Reading the registers, the durations of a step and the assembly of the
operation-select word (spec/30_encoding.md rules R63 to R68). -/

namespace Sys2Proof.Machine

/-- A read of `byte_s`; with no value, a free value (rule R36, U11). -/
def State.readByteS (s : State) : Nat := s.byteS.getD Config.unwrittenByteS

/-- A read of `cell_s`; with no value, a free value. -/
def State.readCellS (s : State) : Nat := s.cellS.getD Config.unwrittenCellS

/-- A read of `low_e`; with no value, a free value. -/
def State.readLowE (s : State) : Nat := s.lowE.getD Config.unwrittenLowE

/-- The bit value of a cell from the operand `G`: `bit = 1 - G` (rule R66). -/
def bitOf (g : Bool) : Byte := if g then 0 else 1

/-- `idx` is at least the previous event's index of this pass, if any (rules R31, R99). -/
def State.inOrder (s : State) (idx : Nat) : Bool :=
  s.lastIdx.all fun p => Nat.ble p idx

/-- No subtraction of this step is negative: `cell_s ≤ idx` where a low phase is measured,
`cell_s ≤ low_e ≤ idx` where a cell is (rules R31, R64, R140). -/
def State.measurable (s : State) (e : Edge) : Bool :=
  match s.phase, e.dir with
  | .low, .rise => Nat.ble s.readCellS e.idx
  | .high, .fall => Nat.ble s.readCellS s.readLowE && Nat.ble s.readLowE e.idx
  | .sync, .fall | .sync, .rise | .low, .fall | .high, .rise | .fault, .fall | .fault, .rise => true

/-- `dl` in phase LOW: the low phase that ends at `idx` (rule R64). -/
def State.lowSoFar (s : State) (idx : Nat) : Nat := idx - s.readCellS

/-- `dl` in phase HIGH (rule R64). -/
def State.dl (s : State) : Nat := s.readLowE - s.readCellS

/-- `dh` in phase HIGH: the high phase that ends at `idx` (rule R64). -/
def State.dh (s : State) (idx : Nat) : Nat := idx - s.readLowE

/-- `dt` in phase HIGH: the whole cell (rule R64). -/
def State.dt (s : State) (idx : Nat) : Nat := idx - s.readCellS

/-- The select word of an event in a state (rules R63 to R68). A predicate is computed only in a
phase that evaluates it; the other fields are 0 (DESIGN CHOICE, log entry 10, safe: the decoder does
not depend on them). -/
def assemble (s : State) (e : Edge) : Osw :=
  match s.phase, e.dir with
  | .low, .rise =>
    let dl := s.lowSoFar e.idx
    Osw.pack (Phase.code .low) true (phaseShort s.fs dl) (phaseReset s.fs dl)
      (srqPosition s.bitCount) false false false false false
  | .high, .fall =>
    Osw.pack (Phase.code .high) false (phaseShort s.fs s.dl) false false
      (phaseShort s.fs (s.dh e.idx)) (cellIsBit s.fs (s.dt e.idx)) (counterIdle s.bitCount)
      (byteCompletes s.bitCount) (lowLonger s.dl (s.dh e.idx))
  | p, d => Osw.pack p.code d.bit false false false false false false false false

/-- The fields of a select word that are evaluated (rule R68): `P` and `D` always, then `A`, `B`, `Q`
in phase LOW at a rising edge and `A`, `H`, `T`, `M`, `Z`, `G` in phase HIGH at a falling edge. -/
def evaluatedMask (p : BitVec 2) (d : Bool) : Osw :=
  if p = Phase.code .low ∧ d = true then 0b11111100000
  else if p = Phase.code .high ∧ d = false then 0b11110011111
  else 0b11100000000

end Sys2Proof.Machine
end

