-- ==== Sys2Proof/Machine/Ops.lean ====
section
/-! DEFINITION. The operations every meaning is built from: consuming the event, emitting a record,
the framing reset, the shift, the two phase changes, raising ConfigError and pass start
(spec/00_scope.md R13, spec/60_exceptions.md R172, spec/70_reset_and_hazards.md R190). -/

namespace Sys2Proof.Machine

/-- `emit(kind, s, e, val)`: append one record to the output (rules R13, R43). -/
def State.emit (s : State) (k : Kind) (first last : Nat) (value : Byte) : State :=
  { s with out := s.out ++ [⟨k, first, last, value⟩] }

/-- The framing reset: `bit_count <- -1; byte <- 0` (rules R142, R191). -/
def State.framingReset (s : State) : State := { s with bitCount := -1, byte := 0 }

/-- `if bit_count mod 8 = 0 then byte_s <- cell_s` (rule R110). -/
def State.captureByteS (s : State) : State :=
  { s with byteS := if onByteBoundary s.bitCount then some s.readCellS else s.byteS }

/-- `byte <- ((byte << 1) & 0xFF) | bit` and `bit_count <- bit_count + 1` (rules R120, R140). -/
def State.shiftIn (s : State) (bit : Byte) : State :=
  { s with byte := ((s.byte <<< 1) &&& Config.byteMask) ||| bit, bitCount := s.bitCount + 1 }

/-- `bit_count <- n` (rule R124). -/
def State.setBitCount (s : State) (n : Int) : State := { s with bitCount := n }

/-- The end of every low-phase operation: `low_e <- idx; phase <- HIGH` (rule R104). -/
def State.endLow (s : State) (idx : Nat) : State := { s with lowE := some idx, phase := .high }

/-- The end of every high-phase operation: `cell_s <- cell_e; phase <- LOW` (rule R104); also the
whole of `SEQ.SYNC` (rule R100). -/
def State.beginCell (s : State) (idx : Nat) : State := { s with cellS := some idx, phase := .low }

/-- The event is consumed: it leaves the input, and its index is now the previous event's (rules R42,
R101). -/
def State.consume (s : State) (e : Edge) (rest : List Input) : State :=
  { s with input := rest, lastIdx := some e.idx }

/-- Run an operation on the event at the head of the input stream. With no event there, the block
waits and nothing changes (rules R41, R52; log entry 13). -/
def onEdge (s : State) (f : Edge → State → State) : Host.Outcome State Fault Refusal :=
  match s.input with
  | .edge e :: rest => .next (f e (s.consume e rest))
  | .start _ :: _ => .next s
  | [] => .next s

/-- `bit_count` after the n-th ConfigError: any value of at least -1 (rules R32, R172). -/
def faultBitCount (n : Nat) : Int := (Config.faultCount n : Int) - 1

/-- `byte` after the n-th ConfigError: any value, but 0 where `bit_count` is -1 (rules R143, R172). -/
def faultByteOf (n : Nat) : Byte := if Config.faultCount n = 0 then 0 else Config.faultByte n

/-- `raise ConfigError` (rule R172): the one exception. `byte`, `bit_count`, `byte_s`, `cell_s` and
`low_e` have no meaning afterwards, so they become free values or no value (log entry 4). There is no
return from it but a new pass (rule R178). -/
def State.raiseConfigError (s : State) : State :=
  { s with
    fault := .configError
    phase := .fault
    byte := faultByteOf s.freeCount
    bitCount := faultBitCount s.freeCount
    byteS := none
    cellS := none
    lowE := none
    freeCount := s.freeCount + 1 }

/-- The register writes of a pass start with a rate (rule R190). -/
def State.initialise (s : State) : State :=
  { s with
    fault := .noFault
    byte := 0
    bitCount := 0
    byteS := none
    cellS := none
    lowE := none
    phase := .sync }

/-- What a pass start does whatever the rate: it leaves the input stream, `FS` is the new pass's
rate, no event of the pass has come yet, and the output is empty (rules R14, R190, R192). -/
def State.newPass (s : State) (fs : Nat) : State :=
  { s with fs := fs, lastIdx := none, input := s.input.tail, out := [] }

/-- `start(FS)`, pass start: ConfigError where no rate was supplied (rule R190). -/
def startPass (fs : Nat) (s : State) : State :=
  if fs = 0 then (s.newPass fs).raiseConfigError else (s.newPass fs).initialise

end Sys2Proof.Machine
end

