-- ==== Sys2Proof/Machine/High.lean ====
section
/-! DEFINITION. The high-phase operations (spec/42_high_phase.md rules R120 to R126). -/

namespace Sys2Proof.Machine

/-- `emit(High, low_e, cell_e)`, of the five operations with a short high phase. -/
def State.emitHigh (s : State) (e : Edge) : State := s.emit .high s.readLowE e.idx 0

/-- A record over the whole cell, `(cell_s, cell_e)`. -/
def State.emitCell (s : State) (k : Kind) (e : Edge) (value : Byte) : State :=
  s.emit k s.readCellS e.idx value

/-- What the three bit-cell operations share: `High`, `Bit`, then the shift and the count (rules R120
to R122). -/
def State.bitCell (s : State) (g : Bool) (e : Edge) : State :=
  ((s.emitHigh e).emitCell .bit e (bitOf g)).shiftIn (bitOf g)

/-- `HIGH.BIT`: a data bit that neither starts nor completes a byte (rule R120). -/
def execHighBit (g : Bool) (s : State) : Host.Outcome State Fault Refusal :=
  onEdge s fun e t => (t.bitCell g e).beginCell e.idx

/-- `HIGH.BITSTART`: the start bit met with `bit_count = -1`; `bit_count <- 0` (rule R121). -/
def execHighBitstart (g : Bool) (s : State) : Host.Outcome State Fault Refusal :=
  onEdge s fun e t => (((t.bitCell g e).setBitCount 0).emitCell .start e 0).beginCell e.idx

/-- `HIGH.BITBYTE`: the bit cell that completes a byte; the payload is `byte` after the shift (rule
R122). -/
def execHighBitbyte (g : Bool) (s : State) : Host.Outcome State Fault Refusal :=
  onEdge s fun e t =>
    let u := t.bitCell g e
    (u.emit .byte u.readByteS e.idx u.byte).beginCell e.idx

/-- `HIGH.STOPCELL`: stop bit spanning the cell; framing is kept (rule R123). -/
def execHighStopcell (s : State) : Host.Outcome State Fault Refusal :=
  onEdge s fun e t => ((t.emitHigh e).emitCell .stop e 0).beginCell e.idx

/-- `HIGH.START`: start bit over the high phase; `byte` is kept (rules R124, R127). -/
def execHighStart (s : State) : Host.Outcome State Fault Refusal :=
  onEdge s fun e t =>
    (((t.emitHigh e).emit .start t.readLowE e.idx 0).setBitCount 0).beginCell e.idx

/-- `HIGH.STOPIDLE`: stop bit over the low phase, then an idle line (rule R125). -/
def execHighStopidle (s : State) : Host.Outcome State Fault Refusal :=
  onEdge s fun e t => ((t.emit .stop t.readCellS t.readLowE 0).framingReset).beginCell e.idx

/-- `HIGH.IDLE`: no record, framing reset (rule R126). -/
def execHighIdle (s : State) : Host.Outcome State Fault Refusal :=
  onEdge s fun e t => t.framingReset.beginCell e.idx

end Sys2Proof.Machine
end

