-- ==== Sys2Proof/Machine/Low.lean ====
section
/-! DEFINITION. The low-phase operations (spec/41_low_phase.md rules R110 to R113). -/

namespace Sys2Proof.Machine

/-- The record of a low phase, `(cell_s, idx)` on the cells row (rules R110 to R113). -/
def State.emitLowPhase (s : State) (k : Kind) (e : Edge) : State := s.emit k s.readCellS e.idx 0

/-- `LOW.SHORT`: ordinary low phase (rule R110). -/
def execLowShort (s : State) : Host.Outcome State Fault Refusal :=
  onEdge s fun e t => ((t.emitLowPhase .low e).captureByteS).endLow e.idx

/-- `LOW.RESET`: global reset; `bit_count` and `byte` are kept (rule R111, decision D20). -/
def execLowReset (s : State) : Host.Outcome State Fault Refusal :=
  onEdge s fun e t => (t.emitLowPhase .reset e).endLow e.idx

/-- `LOW.ATTN`: attention (rule R112). -/
def execLowAttn (s : State) : Host.Outcome State Fault Refusal :=
  onEdge s fun e t => ((t.emitLowPhase .attention e).framingReset).endLow e.idx

/-- `LOW.SRQ`: service request (rule R113). -/
def execLowSrq (s : State) : Host.Outcome State Fault Refusal :=
  onEdge s fun e t => ((t.emitLowPhase .serviceRequest e).framingReset).endLow e.idx

end Sys2Proof.Machine
end

