-- ==== Sys2Proof/Machine/Seq.lean ====
section
/-! DEFINITION. The sequencer operations (spec/40_timebase_and_sequencer.md rules R100 to R102). -/

namespace Sys2Proof.Machine

/-- `skip`: the event is consumed, and nothing else changes (rules R13, R101). -/
def skipEdge (s : State) : Host.Outcome State Fault Refusal := onEdge s fun _ t => t

/-- `SEQ.SYNC`: `cell_s <- idx; phase <- LOW` (rule R100). -/
def execSeqSync (s : State) : Host.Outcome State Fault Refusal :=
  onEdge s fun e t => t.beginCell e.idx

/-- `SEQ.SKIP` in phase SYNC (rule R101). -/
def execSeqSkipSync (s : State) : Host.Outcome State Fault Refusal := skipEdge s

/-- `SEQ.SKIP` in phase LOW (rule R101). -/
def execSeqSkipLow (s : State) : Host.Outcome State Fault Refusal := skipEdge s

/-- `SEQ.SKIP` in phase HIGH (rule R101). -/
def execSeqSkipHigh (s : State) : Host.Outcome State Fault Refusal := skipEdge s

/-- `SEQ.DEAD` (rule R102). -/
def execSeqDead (s : State) : Host.Outcome State Fault Refusal := skipEdge s

end Sys2Proof.Machine
end

