-- ==== Sys2Proof/Machine/Dispatch.lean ====
section
/-! DEFINITION. What each operation does: one arm per constructor of Instr
(spec/40_timebase_and_sequencer.md rule R99). -/

namespace Sys2Proof.Machine

def exec (i : Instr) (s : State) : Host.Outcome State Fault Refusal :=
  match i with
  | .seqSync => Sys2Proof.Machine.execSeqSync s
  | .seqSkipSync => Sys2Proof.Machine.execSeqSkipSync s
  | .seqSkipLow => Sys2Proof.Machine.execSeqSkipLow s
  | .seqSkipHigh => Sys2Proof.Machine.execSeqSkipHigh s
  | .seqDead => Sys2Proof.Machine.execSeqDead s
  | .lowShort => Sys2Proof.Machine.execLowShort s
  | .lowReset => Sys2Proof.Machine.execLowReset s
  | .lowAttn => Sys2Proof.Machine.execLowAttn s
  | .lowSrq => Sys2Proof.Machine.execLowSrq s
  | .highBit g => Sys2Proof.Machine.execHighBit g s
  | .highBitstart g => Sys2Proof.Machine.execHighBitstart g s
  | .highBitbyte g => Sys2Proof.Machine.execHighBitbyte g s
  | .highStopcell => Sys2Proof.Machine.execHighStopcell s
  | .highStart => Sys2Proof.Machine.execHighStart s
  | .highStopidle => Sys2Proof.Machine.execHighStopidle s
  | .highIdle => Sys2Proof.Machine.execHighIdle s

end Sys2Proof.Machine
end

