-- ==== Sys2Proof/Machine/Fetch.lean ====
section
/-! DEFINITION. Fetching: what the head of the input stream makes the block do next
(spec/40_timebase_and_sequencer.md rules R98, R99), and how a select word is placed so that the next
step runs its operation. -/

namespace Sys2Proof.Machine

/-- What the next step does. -/
inductive Fetched where
  /-- nothing has arrived: the block waits (rules R41, R53) -/
  | wait
  /-- the host starts a pass (rule R190) -/
  | start (fs : Nat)
  /-- an event selects this operation (rule R99) -/
  | run (i : Instr)
  /-- the event has no meaning (rule R181) -/
  | refuse (r : Refusal)
  deriving DecidableEq, Repr

/-- The `require` of rule R99 and the preconditions of the subtractions (rules R31, R181). -/
def State.accepts (s : State) (e : Edge) : Bool := s.inOrder e.idx && s.measurable e

/-- What the next step does, from the head of the input stream (rule R99). -/
def fetch (s : State) : Fetched :=
  match s.input with
  | [] => .wait
  | .start fs :: _ => .start fs
  | .edge e :: _ =>
    if s.accepts e then .run (decode (assemble s e)) else .refuse .nonMonotonicIndex

/-- The state with phase `p` entered without a fault, one sample a microsecond, the cell begun at
`c`, and this bit count. -/
def State.placed (s : State) (p : Phase) (c : Nat) (n : Int) : State :=
  { s with fs := 1000000, phase := p, fault := .noFault, bitCount := n, cellS := some c }

/-- The state in phase LOW at `bit_count = n` whose low phase of `dl` microseconds ends at the next
event. -/
def State.placedLow (s : State) (n : Int) (dl : Nat) : State :=
  let c := s.lastIdx.getD 0
  { s.placed .low c n with input := .edge ⟨.rise, c + dl⟩ :: s.input }

/-- The state in phase HIGH at `bit_count = n` whose cell of `dl` and `dh` microseconds ends at the
next event. -/
def State.placedHigh (s : State) (n : Int) (dl dh : Nat) : State :=
  let c := s.lastIdx.getD 0
  { s.placed .high c n with
    lowE := some (c + dl)
    lastIdx := some (c + dl)
    input := .edge ⟨.fall, c + dl + dh⟩ :: s.input }

/-- The same with a bit cell of 100 microseconds whose operand `G` is `g`. -/
def State.placedCell (s : State) (n : Int) (g : Bool) : State :=
  s.placedHigh n (if g then 65 else 35) (if g then 35 else 65)

/-- The state with an event of direction `d` before the others, in phase `p`. -/
def State.placedSeq (s : State) (p : Phase) (f : FaultCode) (d : Dir) : State :=
  { s with phase := p, fault := f, input := .edge ⟨d, s.lastIdx.getD 0⟩ :: s.input }

/-- A situation (registers and event) in which the next step selects the operation `i`. There is no
program memory to store a word in (rule R40): the word is assembled from the situation, so placing
an operation is placing a situation that selects it (log entry 11). -/
def State.situate (s : State) (i : Instr) : State :=
  match i with
  | .seqSync => s.placedSeq .sync .noFault .fall
  | .seqSkipSync => s.placedSeq .sync .noFault .rise
  | .seqSkipLow => s.placedSeq .low .noFault .fall
  | .seqSkipHigh => s.placedSeq .high .noFault .rise
  | .seqDead => s.placedSeq .fault .configError .fall
  | .lowShort => s.placedLow 0 35
  | .lowReset => s.placedLow 0 3000
  | .lowAttn => s.placedLow 0 300
  | .lowSrq => s.placedLow 8 300
  | .highBit g => s.placedCell 0 g
  | .highBitstart g => s.placedCell (-1) g
  | .highBitbyte g => { s.placedCell 7 g with byteS := some (s.lastIdx.getD 0) }
  | .highStopcell => s.placedHigh 0 60 80
  | .highStart => s.placedHigh (-1) 300 70
  | .highStopidle => s.placedHigh 0 40 150
  | .highIdle => s.placedHigh (-1) 300 200

end Sys2Proof.Machine
end

