-- ==== Sys2Proof/Machine/Step.lean ====
section
/-! DEFINITION. One step of the machine (spec/40_timebase_and_sequencer.md rules R98, R99): it runs
the operation the next event selects, starts a pass where the host does, waits where nothing has
arrived. -/

namespace Sys2Proof.Machine

/-- One step. -/
def step (s : State) : Host.Outcome State Fault Refusal :=
  match fetch s with
  | .wait => .next s
  | .start fs => .next (startPass fs s)
  | .run i => exec i s
  | .refuse r => .refused r

/-- The state in which the next step runs the operation the decoder reads from this word (log entry
11); unchanged where the decoder refuses the word. -/
def State.withFetchWord (s : State) (nbits w : Nat) : State :=
  match decodeTableWord nbits w with
  | some i => s.situate i
  | none => s

end Sys2Proof.Machine
end

