-- ==== Sys2Proof/Machine/FrontEnd.lean ====
section
/-! DEFINITION. The optional sampled-level front end (spec/40_timebase_and_sequencer.md rule R103,
decision D3). It stands before the block; the step function does not use it. -/

namespace Sys2Proof

/-- The events of the samples from index `n` on, `prev` being sample `n - 1`; true is high. -/
def edgesFrom (n : Nat) (prev : Bool) : List Bool → List Edge
  | [] => []
  | level :: rest =>
    if level = prev then edgesFrom (n + 1) level rest
    else ⟨if level then .rise else .fall, n⟩ :: edgesFrom (n + 1) level rest

/-- The events of a sampled level: one at every sample that differs from the one before, and none at
sample 0 (rule R103). -/
def edgesOfLevels : List Bool → List Edge
  | [] => []
  | level :: rest => edgesFrom 1 level rest

end Sys2Proof
end

