-- ==== Sys2Proof/Machine/Pass.lean ====
section
/-! DEFINITION. A pass and what the environment observes of it (spec/00_scope.md R14,
spec/40_timebase_and_sequencer.md R98, spec/70_reset_and_hazards.md R196). -/

namespace Sys2Proof.Machine

/-- The records a run has emitted; none where it was refused, since nothing is said past that point
(rules R181, R196). The final registers are not part of the result. -/
def observation : Host.Outcome State Fault Refusal → Option (List Ann)
  | .next s => some s.out
  | .fault _ => none
  | .refused _ => none

/-- `n` steps of the step function `f`, ending at the first stop. -/
def iterate (f : State → Host.Outcome State Fault Refusal) :
    Nat → State → Host.Outcome State Fault Refusal
  | 0, s => .next s
  | n + 1, s =>
    match f s with
    | .next t => iterate f n t
    | .fault x => .fault x
    | .refused x => .refused x

/-- The machine with a pass waiting in its input stream: the start with its rate, then the events
(rule R98). -/
def State.loaded (fs : Nat) (events : List Edge) : State :=
  { State.reset with input := .start fs :: events.map .edge }

/-- `pass(FS, events)` under a step function: the start and one step per event (rule R98). -/
def passWith (f : State → Host.Outcome State Fault Refusal) (fs : Nat) (events : List Edge) :
    Host.Outcome State Fault Refusal :=
  iterate f (events.length + 1) (State.loaded fs events)

/-- `pass(FS, events)` (rule R98). -/
def pass (fs : Nat) (events : List Edge) : Host.Outcome State Fault Refusal :=
  passWith step fs events

end Sys2Proof.Machine
end

