-- ==== Sys2Proof/Machine/Realisation.lean ====
section
/-! DEFINITION. What the spec permits a hardware realisation: precomputed limits
(spec/40_timebase_and_sequencer.md R93), finite widths and a saturating duration
(spec/43_framing_fsm_and_laws.md R141), and the 18-state counter (R150). The machine itself uses none
of them. -/

namespace Sys2Proof.Machine

/-- `floor(T × FS / 1_000_000)` (rule R93). -/
def floorLimit (t fs : Nat) : Nat := t * fs / Config.usPerS

/-- `ceil(T × FS / 1_000_000)` (rule R93). -/
def ceilLimit (t fs : Nat) : Nat := (t * fs + (Config.usPerS - 1)) / Config.usPerS

/-- `N_A` (rule R93). -/
def limitA (fs : Nat) : Nat := ceilLimit Config.tPhase fs

/-- `N_B` (rule R93). -/
def limitB (fs : Nat) : Nat := floorLimit Config.tReset fs

/-- `N_T` (rule R93). -/
def limitT (fs : Nat) : Nat := floorLimit Config.tCell fs

/-- A duration counter that saturates at `N_B + 1` (rule R141). -/
def saturate (fs d : Nat) : Nat := min d (limitB fs + 1)

/-- The product `d × 1_000_000` in `IDX_W + 20` bits (rule R141). -/
def wideDuration (idxW : Nat) (d : BitVec idxW) : BitVec (idxW + 20) :=
  d.zeroExtend (idxW + 20) * BitVec.ofNat (idxW + 20) Config.usPerS

/-- The product `T × FS` in `FS_W + 11` bits (rule R141). -/
def wideThreshold (fsW : Nat) (fs : BitVec fsW) (t : Nat) : BitVec (fsW + 11) :=
  BitVec.ofNat (fsW + 11) t * fs.zeroExtend (fsW + 11)

/-- The set `S` of rule R150 as a fold of the unbounded counter: `f`. -/
def foldCount (n : Int) : Int := if n ≤ 16 then n else 9 + (n - 9) % 8

/-- `succ` on the 18 states (rule R150). -/
def succCount (n : Int) : Int := if n < 16 then n + 1 else 9

/-- The state with its counter folded. -/
def State.fold (s : State) : State := { s with bitCount := foldCount s.bitCount }

/-- The shift with the folded counter's `succ`. -/
def State.shiftInFolded (s : State) (bit : Byte) : State :=
  (s.shiftIn bit).setBitCount (succCount s.bitCount)

/-- The bit cell with the folded counter. -/
def State.bitCellFolded (s : State) (g : Bool) (e : Edge) : State :=
  ((s.emitHigh e).emitCell .bit e (bitOf g)).shiftInFolded (bitOf g)

/-- An operation of the 18-state block: `+ 1` is `succ` (rule R150). -/
def execFolded (i : Instr) (s : State) : Host.Outcome State Fault Refusal :=
  match i with
  | .highBit g => onEdge s fun e t => (t.bitCellFolded g e).beginCell e.idx
  | .highBitstart g =>
    onEdge s fun e t => (((t.bitCellFolded g e).setBitCount 0).emitCell .start e 0).beginCell e.idx
  | .highBitbyte g =>
    onEdge s fun e t =>
      let u := t.bitCellFolded g e
      (u.emit .byte u.readByteS e.idx u.byte).beginCell e.idx
  | i => exec i s

/-- One step of the 18-state block. -/
def stepFolded (s : State) : Host.Outcome State Fault Refusal :=
  match fetch s with
  | .wait => .next s
  | .start fs => .next (startPass fs s).fold
  | .run i => execFolded i s
  | .refuse x => .refused x

end Sys2Proof.Machine
end

