-- ==== Sys2Proof/Machine/Select.lean ====
section
/-! DEFINITION. The step dispatch as the spec writes it in code
(spec/40_timebase_and_sequencer.md rule R99), from the registers and the event, without the select
word: what the table of rule R70 is held against. -/

namespace Sys2Proof.Machine

/-- The LOW case of rule R99 at a rising edge. -/
def selectLow (s : State) (idx : Nat) : Instr :=
  let dl := idx - s.readCellS
  if usLt s.fs dl Config.tPhase then .lowShort
  else if usGt s.fs dl Config.tReset then .lowReset
  else if s.bitCount == Config.srqCount then .lowSrq
  else .lowAttn

/-- The HIGH case of rule R99 at a falling edge. -/
def selectHigh (s : State) (idx : Nat) : Instr :=
  let dl := s.readLowE - s.readCellS
  let dh := idx - s.readLowE
  let dt := idx - s.readCellS
  if usLt s.fs dh Config.tPhase then
    if usLe s.fs dt Config.tCell then
      if s.bitCount == -1 then .highBitstart (Nat.blt dh dl)
      else if (s.bitCount + 1) % Config.bitsPerByte == 0 then .highBitbyte (Nat.blt dh dl)
      else .highBit (Nat.blt dh dl)
    else if usLt s.fs dl Config.tPhase then .highStopcell
    else .highStart
  else if usLt s.fs dl Config.tPhase then .highStopidle
  else .highIdle

/-- The case distinction of rule R99. -/
def select (s : State) (e : Edge) : Instr :=
  match s.phase, e.dir with
  | .fault, _ => .seqDead
  | .sync, .fall => .seqSync
  | .sync, .rise => .seqSkipSync
  | .low, .fall => .seqSkipLow
  | .low, .rise => selectLow s e.idx
  | .high, .rise => .seqSkipHigh
  | .high, .fall => selectHigh s e.idx

end Sys2Proof.Machine
end

