-- ==== Sys2Proof/Machine/Trace.lean ====
section
/-! DEFINITION. The textual notation of events, records and states, and the macros that expand to
events (spec/30_encoding.md rule R79). -/

namespace Sys2Proof

/-- `F@n` or `R@n`. -/
def Edge.text (e : Edge) : String :=
  (match e.dir with | .fall => "F@" | .rise => "R@") ++ toString e.idx

/-- The name of a kind. -/
def Kind.name : Kind → String
  | .low => "Low"
  | .high => "High"
  | .attention => "Attention"
  | .reset => "Reset"
  | .bit => "Bit"
  | .byte => "Byte"
  | .start => "Start"
  | .stop => "Stop"
  | .serviceRequest => "ServiceRequest"

/-- `Kind(s,e)`, `Bit(s,e,v)` or `Byte(s,e,0xHH)`. -/
def Ann.text (a : Ann) : String :=
  let span := a.kind.name ++ "(" ++ toString a.startSample ++ "," ++ toString a.endSample
  match a.kind with
  | .bit => span ++ "," ++ toString a.value.toNat ++ ")"
  | .byte => span ++ ",0x" ++ hexByte a.value ++ ")"
  | .low | .high | .attention | .reset | .start | .stop | .serviceRequest => span ++ ")"

/-- The name of a phase. -/
def Machine.Phase.name : Machine.Phase → String
  | .sync => "SYNC"
  | .low => "LOW"
  | .high => "HIGH"
  | .fault => "FAULT"

/-- A sample index, or `-` for no value. -/
def indexText : Option Nat → String
  | none => "-"
  | some n => toString n

/-- `phase/bit_count/byte/byte_s/cell_s/low_e`. -/
def Machine.State.text (s : Machine.State) : String :=
  s.phase.name ++ "/" ++ toString s.bitCount ++ "/0x" ++ hexByte s.byte ++ "/" ++
    indexText s.byteS ++ "/" ++ indexText s.cellS ++ "/" ++ indexText s.lowE

/-- An item of a program: an event, or a macro. Durations are in samples. -/
inductive TraceItem where
  /-- `F@n` -/
  | fallAt (n : Nat)
  /-- `R@n` -/
  | riseAt (n : Nat)
  /-- `start(n)` -/
  | start (n : Nat)
  /-- `cell(l, h)` -/
  | cell (l h : Nat)
  /-- `bits(v, n; one=(l1,h1), zero=(l0,h0))` -/
  | bits (v n : Nat) (one zero : Nat × Nat)
  /-- `lead(n)` -/
  | lead (n : Nat)
  deriving DecidableEq, Repr

/-- `cell(l, h)` with the cursor at `t`. -/
def expandCell (t : Nat) (l h : Nat) : List Edge := [⟨.rise, t + l⟩, ⟨.fall, t + l + h⟩]

/-- `bits(v, n; …)` with the cursor at `t`: the `n` low bits of `v`, most significant first; the
events and the cursor after them. -/
def expandBits (v : Nat) (one zero : Nat × Nat) : Nat → Nat → List Edge × Nat
  | 0, t => ([], t)
  | k + 1, t =>
    let c := if v.testBit k then one else zero
    let next := expandBits v one zero k (t + c.1 + c.2)
    (expandCell t c.1 c.2 ++ next.1, next.2)

/-- The events of a program with the cursor at `t`, the index of the last event written. -/
def expand : Nat → List TraceItem → List Edge
  | _, [] => []
  | _, .fallAt n :: rest => ⟨.fall, n⟩ :: expand n rest
  | _, .riseAt n :: rest => ⟨.rise, n⟩ :: expand n rest
  | _, .start n :: rest => ⟨.fall, n⟩ :: expand n rest
  | _, .lead n :: rest => ⟨.rise, n⟩ :: expand n rest
  | t, .cell l h :: rest => expandCell t l h ++ expand (t + l + h) rest
  | t, .bits v n one zero :: rest =>
    (expandBits v one zero n t).1 ++ expand (expandBits v one zero n t).2 rest

/-- `fs=<FS>` and a program, as the input stream of the block: a pass start, then the events. DESIGN
CHOICE (log entry 29), safe: the cursor starts at 0. Rule R79 gives it no value before the first
event, which a program that begins with `cell` or `bits` reads. -/
def traceInput (fs : Nat) (items : List TraceItem) : List Input :=
  .start fs :: (expand 0 items).map .edge

end Sys2Proof
end

