-- ==== Sys2Proof/Machine/Variants.lean ====
section
/-! DEFINITION. The two readings the spec lets a model carry beside its own
(spec/92_eei_decisions.md D11, spec/93_implementation_defined.md U1 and U17). The machine itself
(exec, step) is the spec's own reading. -/

namespace Sys2Proof.Machine

/-- `BITSTART_EMITS_BIT` (default true, D11) and `RESET_CLEARS_FRAMING` (default false, U1). -/
structure Reading where
  bitstartEmitsBit : Bool
  resetClearsFraming : Bool
  deriving DecidableEq, Repr

/-- The spec's own reading. -/
def Reading.spec : Reading := ⟨true, false⟩

/-- The variant block of rule R147: `LOW.RESET` also performs the framing reset. -/
def Reading.resetClears : Reading := ⟨true, true⟩

/-- `LOW.RESET` with the framing reset (rule R147). -/
def execLowResetClearing (s : State) : Host.Outcome State Fault Refusal :=
  onEdge s fun e t => ((t.emitLowPhase .reset e).framingReset).endLow e.idx

/-- `HIGH.BITSTART` without its `Bit` record (decision D11). -/
def execHighBitstartNoBit (g : Bool) (s : State) : Host.Outcome State Fault Refusal :=
  onEdge s fun e t =>
    ((((t.emitHigh e).shiftIn (bitOf g)).setBitCount 0).emitCell .start e 0).beginCell e.idx

/-- An operation under a reading. -/
def execReading (r : Reading) (i : Instr) (s : State) : Host.Outcome State Fault Refusal :=
  match i with
  | .lowReset => if r.resetClearsFraming then execLowResetClearing s else exec .lowReset s
  | .highBitstart g =>
    if r.bitstartEmitsBit then exec (.highBitstart g) s else execHighBitstartNoBit g s
  | i => exec i s

/-- One step under a reading. -/
def stepReading (r : Reading) (s : State) : Host.Outcome State Fault Refusal :=
  match fetch s with
  | .wait => .next s
  | .start fs => .next (startPass fs s)
  | .run i => execReading r i s
  | .refuse x => .refused x

end Sys2Proof.Machine
end

