-- ==== Sys2Proof/Safety.lean ====
section
/-! DEFINITION. The terms the claims are written in: when an edge ends a phase, the invariants of a
safe run, the order of the output, and the two index transformations of spec/43 rule R155. -/

namespace Sys2Proof.Machine

/-- The next state of an outcome, where it has one. -/
def nextState? : Host.Outcome State Fault Refusal → Option State
  | .next t => some t
  | .fault _ => none
  | .refused _ => none

/-- The next input is the event `e`, not below the previous event (rules R31, R99). -/
structure State.Faces (s : State) (e : Edge) (rest : List Input) : Prop where
  input : s.input = .edge e :: rest
  order : s.inOrder e.idx = true

/-- A rising edge ends the low phase that began at `c`: what the four low-phase operations have in
common on entry (spec/41_low_phase.md). -/
structure State.LowEnds (s : State) (e : Edge) (rest : List Input) (c : Nat) : Prop where
  faces : s.Faces e rest
  phase : s.phase = .low
  dir : e.dir = .rise
  cellS : s.cellS = some c
  le : c ≤ e.idx

/-- A falling edge ends the cell that began at `c` and whose low phase ended at `l`: what the seven
high-phase operations have in common on entry (spec/42_high_phase.md). -/
structure State.CellEnds (s : State) (e : Edge) (rest : List Input) (c l : Nat) : Prop where
  faces : s.Faces e rest
  phase : s.phase = .high
  dir : e.dir = .fall
  cellS : s.cellS = some c
  lowE : s.lowE = some l
  le₁ : c ≤ l
  le₂ : l ≤ e.idx

/-- Both have a value and the first is at most the second. -/
def optLe : Option Nat → Option Nat → Bool
  | some a, some b => Nat.ble a b
  | some _, none => false
  | none, some _ => false
  | none, none => false

/-- The value invariants of rules R27, R32, R36 and R143, and the index invariant of R31: true after
pass start and after every step. -/
structure State.Inv (s : State) : Prop where
  /-- `phase = FAULT` iff `fault = ConfigError` (rules R27, R32) -/
  faultPhase : s.phase = .fault ↔ s.fault = .configError
  /-- ConfigError exactly where the pass has no sample rate (rules R170, R171) -/
  faultRate : s.phase = .fault ↔ s.fs = 0
  /-- `bit_count ≥ -1` (rules R32, R143) -/
  count : -1 ≤ s.bitCount
  /-- `bit_count = -1` implies `byte = 0` (rule R143) -/
  idleByte : s.bitCount = -1 → s.byte = 0
  /-- in phase SYNC the registers are those of pass start (rules R36, R100) -/
  sync : s.phase = .sync → s.bitCount = 0 ∧ s.byte = 0 ∧ s.byteS = none ∧ s.cellS = none ∧ s.lowE = none
  /-- in phase LOW `cell_s` has a value, at most the previous event's index (rules R31, R32) -/
  low : s.phase = .low → optLe s.cellS s.lastIdx = true
  /-- in phase HIGH `cell_s ≤ low_e`, both present, at most the previous event's index (R31, R32) -/
  high : s.phase = .high → optLe s.cellS s.lowE = true ∧ optLe s.lowE s.lastIdx = true

/-- What the low-phase step leaves for the high-phase step, and `byte_s` (rules R71 fourth row, R148). -/
structure State.FramingInv (s : State) : Prop where
  /-- after a mid-length low the counter is idle (rules R112, R113) -/
  midLow : s.phase = .high → phaseShort s.fs s.dl = false → phaseReset s.fs s.dl = false →
    s.bitCount = -1
  /-- after a short low on a byte boundary `byte_s` is this cell's start (rule R110) -/
  captured : s.phase = .high → phaseShort s.fs s.dl = true → onByteBoundary s.bitCount = true →
    s.byteS = s.cellS
  /-- inside a byte `byte_s` has a value (rule R148) -/
  inByte : s.phase ≠ .fault → s.bitCount ≠ -1 → onByteBoundary s.bitCount = false →
    s.byteS.isSome = true

/-- The `j`-th newest `Bit` record, the newest being number 0. -/
def newestBitRecord (out : List Ann) (j : Nat) : Option Ann :=
  (out.filter (fun a => a.kind = .bit)).reverse[j]?

/-- The value of the `j`-th newest `Bit` record. -/
def newestBit (out : List Ann) (j : Nat) : Option Bool :=
  (newestBitRecord out j).map (fun a => a.value.getLsbD 0)

/-- The first sample of the `j`-th newest `Bit` record, that is, the `cell_s` of its bit cell. -/
def newestBitStart (out : List Ann) (j : Nat) : Option Nat :=
  (newestBitRecord out j).map (fun a => a.startSample)

/-- Every `Byte` record's payload is the eight newest bit values before it, the newest in bit 0 (rule
R145). -/
def BytesRight (out : List Ann) : Prop :=
  ∀ pre b post, out = pre ++ b :: post → b.kind = .byte →
    ∀ j, j < 8 → newestBit pre j = some (b.value.getLsbD j)

/-- Rule R145 as an invariant: the accumulator's low bits are the newest bit values, as many as the
counter counts, and every `Byte` record emitted so far is right. -/
structure State.PayloadInv (s : State) : Prop where
  recent : s.phase ≠ .fault → ∀ j : Nat, j < 8 → (j : Int) < s.bitCount →
    newestBit s.out j = some (s.byte.getLsbD j)
  bytes : BytesRight s.out

/-- Every `Byte` record spans from the first sample of the eighth newest bit cell before it, the first
of its eight, to the last sample of the newest one (rule R148). -/
def ByteSpansRight (out : List Ann) : Prop :=
  ∀ pre b post, out = pre ++ b :: post → b.kind = .byte →
    newestBitStart pre 7 = some b.startSample ∧
      (newestBitRecord pre 0).map (fun a => a.endSample) = some b.endSample

/-- Rule R148 as an invariant: with `m` bit cells of a byte done, `byte_s` is the start of the first
of them, the `m`-th newest bit cell, and every `Byte` record emitted so far has the right span. -/
structure State.ByteSpanInv (s : State) : Prop where
  first : s.phase ≠ .fault → ∀ m : Nat, 1 ≤ m → m < 8 → 0 ≤ s.bitCount → s.bitCount % 8 = m →
    s.byteS.isSome = true ∧ newestBitStart s.out (m - 1) = s.byteS
  spans : ByteSpansRight s.out

/-- Rule R152 as an invariant: (a) per-row start order, (b) global end order, (d) causality; the
other fields place the registers behind the records, which carries the induction. -/
structure State.OrderInv (s : State) : Prop where
  rows : ∀ r : AnnRow,
    (s.out.filter (fun a => a.kind.row = r)).Pairwise (fun a b => a.startSample ≤ b.startSample)
  ends : s.out.Pairwise (fun a b => a.endSample ≤ b.endSample)
  causal : ∀ a ∈ s.out, a.startSample ≤ a.endSample ∧ optLe (some a.endSample) s.lastIdx = true
  beforeCell : s.phase = .low → ∀ a ∈ s.out, optLe (some a.endSample) s.cellS = true
  beforeHigh : s.phase = .high → ∀ a ∈ s.out, optLe (some a.endSample) s.lowE = true
  framingBeforeCell : s.phase = .high →
    ∀ a ∈ s.out, a.kind.row ≠ .cells → optLe (some a.endSample) s.cellS = true
  byteBeforeCell : s.phase = .low ∨ s.phase = .high →
    ∀ b, s.byteS = some b → optLe (some b) s.cellS = true
  bytesBefore : s.phase ≠ .fault → s.bitCount ≠ -1 → onByteBoundary s.bitCount = false →
    ∀ a ∈ s.out, a.kind = .byte → optLe (some a.endSample) s.byteS = true

/-- A state with every sample index mapped by `f` and every sample rate by `g`. -/
def State.rescale (f g : Nat → Nat) (s : State) : State :=
  { s with
    fs := g s.fs
    byteS := s.byteS.map f
    cellS := s.cellS.map f
    lowE := s.lowE.map f
    lastIdx := s.lastIdx.map f
    input := s.input.map fun i =>
      match i with
      | .start fs => .start (g fs)
      | .edge e => .edge ⟨e.dir, f e.idx⟩
    out := s.out.map fun a => ⟨a.kind, f a.startSample, f a.endSample, a.value⟩ }

/-- Every index shifted by `c` (rule R155 (a)). -/
def State.shift (c : Nat) (s : State) : State := s.rescale (fun n => n + c) (fun fs => fs)

/-- Every index and every rate multiplied by `k` (rule R155 (b)). -/
def State.scale (k : Nat) (s : State) : State := s.rescale (fun n => k * n) (fun fs => k * fs)

/-- The classes of a low phase (rule R151). -/
inductive LowClass where
  | short
  | mid
  | reset
  deriving DecidableEq, Repr

/-- The classes of a high phase (rule R151): a bit cell, a short high in a long cell, a long high. -/
inductive HighClass where
  | bit
  | stretched
  | long
  deriving DecidableEq, Repr

/-- The class of a low phase of `dl` samples. -/
def lowClass (fs dl : Nat) : LowClass :=
  if phaseShort fs dl then .short else if phaseReset fs dl then .reset else .mid

/-- The class of a high phase of `dh` samples in a cell of `dt`. -/
def highClass (fs dh dt : Nat) : HighClass :=
  if phaseShort fs dh then (if cellIsBit fs dt then .bit else .stretched) else .long

/-- `bit_count` after a cell, from its value `n` before (the table of rule R151). -/
def cellCount (n : Int) : LowClass → HighClass → Int
  | .short, .bit => n + 1
  | .short, .stretched => n
  | .short, .long => -1
  | .mid, .bit => 0
  | .mid, .stretched => 0
  | .mid, .long => -1
  | .reset, .bit => 0
  | .reset, .stretched => 0
  | .reset, .long => -1

/-- The record of the low phase `(c, r)`, from `bit_count = n` before the cell: a mid-length low is a
service request exactly where `n = 8` (the operations column of rule R151). -/
def lowRecord (n : Int) (c r : Nat) : LowClass → Ann
  | .short => ⟨.low, c, r, 0⟩
  | .mid => ⟨if n = 8 then .serviceRequest else .attention, c, r, 0⟩
  | .reset => ⟨.reset, c, r, 0⟩

/-- The cells-row record of the high phase `(r, f)`: `High` unless it is long (rule R151). -/
def highRecord (r f : Nat) : HighClass → List Ann
  | .bit => [⟨.high, r, f, 0⟩]
  | .stretched => [⟨.high, r, f, 0⟩]
  | .long => []

/-- The value of a bit cell: 0 exactly where the low phase is longer (rule R66). -/
def cellBit (c r f : Nat) : Byte := if r - c > f - r then 0 else 1

/-- The bits-row and bytes-row records of the cell `(c, r, f)`, from the state `s` before it, with
their spans and values (the table of rule R151; the span and payload of `Byte` from rule R122). -/
def framingRecords (s : State) (c r f : Nat) : LowClass → HighClass → List Ann
  | .short, .bit =>
    let v := cellBit c r f
    if s.bitCount = -1 then [⟨.bit, c, f, v⟩, ⟨.start, c, f, 0⟩]
    else if s.bitCount % 8 = 7 then
      [⟨.bit, c, f, v⟩, ⟨.byte, s.readByteS, f, ((s.byte <<< 1) &&& 0xFF) ||| v⟩]
    else [⟨.bit, c, f, v⟩]
  | .short, .stretched => [⟨.stop, c, f, 0⟩]
  | .short, .long => [⟨.stop, c, r, 0⟩]
  | .mid, .bit => [⟨.bit, c, f, 0⟩, ⟨.start, c, f, 0⟩]
  | .mid, .stretched => [⟨.start, r, f, 0⟩]
  | .mid, .long => []
  | .reset, .bit => []
  | .reset, .stretched => [⟨.start, r, f, 0⟩]
  | .reset, .long => []

/-- All records of the cell `(c, r, f)` in emission order, from the state `s` before it (rule R151). -/
def cellRecords (s : State) (c r f : Nat) (low : LowClass) (high : HighClass) : List Ann :=
  lowRecord s.bitCount c r low :: (highRecord r f high ++ framingRecords s c r f low high)

end Sys2Proof.Machine
end

