-- ==== Sys2Proof/Certificates/Slice0/Obligations.lean ====
section
/-! DEFINITION. The statements for the provers. Each docstring names the rules of spec/ it rests on. -/

open Sys2Proof Sys2Proof.Machine

/-! ## Encoding -/

/-- One word of each row of rule R70, its `x` positions filled in by hand, decodes to the row's
operation. Rests on the spec's own decision D1. -/
def Obligations.PatternWordsDecode : Prop :=
  decode 0b00011010011 = .seqSync ∧ decode 0b00100101100 = .seqSkipSync ∧
  decode 0b01011111111 = .seqSkipLow ∧ decode 0b10100011010 = .seqSkipHigh ∧
  decode 0b11111011011 = .seqDead ∧ decode 0b01111111111 = .lowShort ∧
  decode 0b01101111111 = .lowReset ∧ decode 0b01100011111 = .lowAttn ∧
  decode 0b01100111111 = .lowSrq ∧ decode 0b10010111001 = .highBit true ∧
  decode 0b10011111100 = .highBitstart false ∧ decode 0b10000111011 = .highBitbyte true ∧
  decode 0b10011110111 = .highStopcell ∧ decode 0b10001110111 = .highStart ∧
  decode 0b10011101111 = .highStopidle ∧ decode 0b10001101111 = .highIdle

/-- Decode and encode agree on every word of every operation, whatever its `x` fields hold (R70).
Rests on the spec's own decision D1. -/
def Obligations.EveryWordOfAnOperationDecodesToIt : Prop :=
  ∀ (i : Instr) (x : Osw), decode (encodeWith i x) = i

/-- Every select word is a word of the operation it decodes to: decoding drops only `x` fields
(R70). Rests on the spec's own decision D1. -/
def Obligations.EveryWordEncodesItsOperation : Prop :=
  ∀ w : Osw, encodeWith (decode w) w = w

/-- The 16 patterns are pairwise disjoint and cover all 2048 words, and the selected row's
operation is the decoder's (R69, R71). Rests on the spec's own inference there. -/
def Obligations.ExactlyOneRowSelectsEachWord : Prop :=
  ∀ w : Osw, ∃ r, opcodeTable.filter (fun r => r.selects w) = [r] ∧ r.op w.g = decode w

/-- The decoder does not depend on a field the phase does not evaluate (R63, R68). Rests on the
spec's own inference there. -/
def Obligations.DecoderIgnoresUnevaluatedFields : Prop :=
  ∀ w x : Osw, decode (w ^^^ (x &&& ~~~ evaluatedMask w.p w.d)) = decode w

/-- The codes of the nine kinds in the order they are listed, their reading back, and no kind at the
codes 9 to 15 (R72, R74). Rests on the spec's own decision D12. -/
def Obligations.KindCodesAreTheListingOrder : Prop :=
  Kind.low.code = 0 ∧ Kind.high.code = 1 ∧ Kind.attention.code = 2 ∧ Kind.reset.code = 3 ∧
  Kind.bit.code = 4 ∧ Kind.byte.code = 5 ∧ Kind.start.code = 6 ∧ Kind.stop.code = 7 ∧
  Kind.serviceRequest.code = 8 ∧
  (∀ k : Kind, Kind.ofCode k.code = some k) ∧
  (∀ c : BitVec 4, 9 ≤ c.toNat → Kind.ofCode c = none)

/-! ## Selecting and stepping -/

/-- A step runs the decoded operation: with an accepted event at the head of the input the step
is exec of the operation its select word decodes to; with nothing there the machine waits
unchanged (R14, R53, R99). The waiting step is the model's own form (log entry 13). -/
def Obligations.StepRunsTheDecodedOperation : Prop :=
  (∀ s e rest, s.input = .edge e :: rest → s.accepts e = true →
    step s = exec (decode (assemble s e)) s) ∧
  (∀ s, s.input = [] → step s = .next s)

/-- The select word and the table choose the operation that the code of rule R99 chooses. The
code is the one of rule R99; the refusal of a decreasing index is decision D9. -/
def Obligations.SelectionFollowsTheDispatchCode : Prop :=
  ∀ s e rest, s.input = .edge e :: rest → s.accepts e = true → fetch s = .run (select s e)

/-- The word placed by withFetchWord is the operation the next step runs (the model's choice of a
situation, log entry 11). -/
def Obligations.PlacedWordIsWhatTheNextStepRuns : Prop :=
  ∀ (s : State) (nbits w : Nat) (i : Instr), decodeTableWord nbits w = some i →
    step (s.withFetchWord nbits w) = exec i (s.withFetchWord nbits w)

/-- The select words that rule R71 calls unreachable are never assembled. Rests on the spec's own
inference there. -/
def Obligations.UnreachableWordsAreNeverAssembled : Prop :=
  ∀ s e rest, s.Inv → s.FramingInv → s.input = .edge e :: rest → s.accepts e = true →
    (s.phase = .low → e.dir = .rise →
      ¬ ((assemble s e).a = true ∧ (assemble s e).b = true)) ∧
    (s.phase = .high → e.dir = .fall →
      ¬ ((assemble s e).m = true ∧ (assemble s e).z = false) ∧
      ¬ ((assemble s e).a = false ∧ (assemble s e).h = false ∧ (assemble s e).t = true) ∧
      ¬ ((assemble s e).a = false ∧ (assemble s e).t = true ∧ (assemble s e).m = false) ∧
      ¬ ((assemble s e).g = false ∧ (assemble s e).a = false ∧ (assemble s e).h = true) ∧
      ¬ ((assemble s e).g = true ∧ (assemble s e).a = true ∧ (assemble s e).h = false))

/-- From a state of a run, every event in order is decoded: no input timing is rejected (R3,
R99). Rests on the spec's own decision D8 and D23. -/
def Obligations.EveryOrderedEventIsDecoded : Prop :=
  ∀ s e rest, s.Inv → s.Faces e rest → ∃ t, step s = .next t ∧ t.input = rest ∧
    t.lastIdx = some e.idx

/-- An event whose index is below the previous event's is refused (R181, D9). Rests on the spec's
own decision D9. -/
def Obligations.DecreasingIndexIsRefused : Prop :=
  ∀ s e rest p, s.input = .edge e :: rest → s.lastIdx = some p → e.idx < p →
    step s = .refused .nonMonotonicIndex

/-! ## Pass start, reset and the fault -/

/-- The registers after a pass start with a rate, and the fault without one (R36). That the state
after reset holds the same values is the model's reading of R191 (log entry 2), and its rate is the
model's choice (log entry 1). Rests on the spec's own decision D14 and D18. -/
def Obligations.PassStartRegisterValues : Prop :=
  (∀ fs s, fs ≠ 0 → ∀ t, t = State.reset ∨ t = startPass fs s →
    t.phase = .sync ∧ t.fault = .noFault ∧ t.byte = 0 ∧ t.bitCount = 0 ∧ t.byteS = none ∧
      t.cellS = none ∧ t.lowE = none) ∧
  (∀ s, (startPass 0 s).phase = .fault ∧ (startPass 0 s).fault = .configError)

/-- Pass start as a step of the machine (R190): with a rate the registers are initialised,
without one ConfigError is raised; the output is empty either way. Rests on the spec's own
decision D14. -/
def Obligations.PassStartStep : Prop :=
  (∀ s fs rest, s.input = .start fs :: rest → fs ≠ 0 →
    step s = .next { s with
      fs := fs, fault := .noFault, byte := 0, bitCount := 0, byteS := none, cellS := none,
      lowE := none, phase := .sync, lastIdx := none, input := rest, out := [] }) ∧
  (∀ s rest, s.input = .start 0 :: rest →
    ∃ t, step s = .next t ∧ t.fault = .configError ∧ t.phase = .fault ∧ t.out = [] ∧ t.fs = 0 ∧
      t.input = rest)

/-- Nothing but the rate, the waiting input and the model's own counter survives a pass start
(R192). The counter is the model's own (log entry 5). -/
def Obligations.NothingSurvivesAPassStart : Prop :=
  ∀ s v fs rest, s.input = .start fs :: rest → v.input = .start fs :: rest →
    s.freeCount = v.freeCount → step s = step v

/-- ConfigError is raised by a pass start without a rate and by nothing else (R170). Rests on the
spec's own decision D14. -/
def Obligations.ConfigErrorOnlyAtPassStart : Prop :=
  ∀ s t, step s = .next t → s.fault = .noFault → t.fault = .configError →
    ∃ rest, s.input = .start 0 :: rest

/-- No event leaves the fault or emits a record in it (R172, R178). Rests on the spec's own
decision D14. -/
def Obligations.FaultIsLeftOnlyByANewPass : Prop :=
  ∀ s t e rest, s.phase = .fault → s.fault = .configError → s.input = .edge e :: rest →
    step s = .next t → t.phase = .fault ∧ t.fault = .configError ∧ t.out = s.out

/-- The output of a pass without a rate is empty, whatever its events (R172). Rests on the spec's
own decision D14. -/
def Obligations.FaultedPassEmitsNothing : Prop :=
  ∀ events, edgesOrdered events = true → observation (pass 0 events) = some []

/-- What no event changes: the rate, the fault register, and the model's counter (R27, R28,
R170). Rests on the spec's own decision D14 and D21. -/
def Obligations.EventsLeaveRateAndFault : Prop :=
  ∀ s t e rest, s.input = .edge e :: rest → step s = .next t →
    t.fs = s.fs ∧ t.fault = s.fault ∧ t.freeCount = s.freeCount

/-- The only control state and its transitions (R26, R104). Rests on the spec's own inference
there. -/
def Obligations.PhaseTransitions : Prop :=
  ∀ s t e rest, s.input = .edge e :: rest → step s = .next t →
    (s.phase = .sync → e.dir = .fall → t.phase = .low ∧ t.cellS = some e.idx) ∧
    (s.phase = .sync → e.dir = .rise → t.phase = .sync ∧ t.cellS = s.cellS) ∧
    (s.phase = .low → e.dir = .rise → t.phase = .high ∧ t.cellS = s.cellS) ∧
    (s.phase = .low → e.dir = .fall → t.phase = .low ∧ t.cellS = s.cellS) ∧
    (s.phase = .high → e.dir = .fall → t.phase = .low ∧ t.cellS = some e.idx) ∧
    (s.phase = .high → e.dir = .rise → t.phase = .high ∧ t.cellS = s.cellS) ∧
    (s.phase = .fault → t.phase = .fault ∧ t.cellS = s.cellS)

/-! ## The operations: what each does, with everything else unchanged, and when a step runs it -/

/-- `SEQ.SYNC` (R100). -/
def Obligations.SeqSyncEffect : Prop :=
  (∀ s e rest, s.input = .edge e :: rest →
    exec .seqSync s = .next { s with
      input := rest, lastIdx := some e.idx, cellS := some e.idx, phase := .low }) ∧
  (∀ s e rest, s.Faces e rest → s.phase = .sync → e.dir = .fall → step s = exec .seqSync s)

/-- `SEQ.SKIP`, all three rows (R101): nothing but the event's consumption. Rests on the spec's
own decision D8. -/
def Obligations.SeqSkipEffect : Prop :=
  (∀ i s e rest, i = .seqSkipSync ∨ i = .seqSkipLow ∨ i = .seqSkipHigh →
    s.input = .edge e :: rest →
    exec i s = .next { s with input := rest, lastIdx := some e.idx }) ∧
  (∀ s e rest, s.Faces e rest → s.phase = .sync → e.dir = .rise → step s = exec .seqSkipSync s) ∧
  (∀ s e rest, s.Faces e rest → s.phase = .low → e.dir = .fall → step s = exec .seqSkipLow s) ∧
  (∀ s e rest, s.Faces e rest → s.phase = .high → e.dir = .rise → step s = exec .seqSkipHigh s)

/-- `SEQ.DEAD` (R102). Rests on the spec's own decision D14. -/
def Obligations.SeqDeadEffect : Prop :=
  (∀ s e rest, s.input = .edge e :: rest →
    exec .seqDead s = .next { s with input := rest, lastIdx := some e.idx }) ∧
  (∀ s e rest, s.Faces e rest → s.phase = .fault → step s = exec .seqDead s)

/-- `LOW.SHORT` (R110): a low phase under 100 microseconds. -/
def Obligations.LowShortEffect : Prop :=
  (∀ s e rest c, s.input = .edge e :: rest → s.cellS = some c →
    exec .lowShort s = .next { s with
      input := rest, lastIdx := some e.idx, out := s.out ++ [⟨.low, c, e.idx, 0⟩],
      byteS := if s.bitCount % 8 = 0 then some c else s.byteS,
      lowE := some e.idx, phase := .high }) ∧
  (∀ s e rest c, s.LowEnds e rest c → (e.idx - c) * 1000000 < 100 * s.fs →
    step s = exec .lowShort s)

/-- `LOW.RESET` (R111): a low phase over 1500 microseconds; `bit_count`, `byte` and `byte_s` are
kept. -/
def Obligations.LowResetEffect : Prop :=
  (∀ s e rest c, s.input = .edge e :: rest → s.cellS = some c →
    exec .lowReset s = .next { s with
      input := rest, lastIdx := some e.idx, out := s.out ++ [⟨.reset, c, e.idx, 0⟩],
      lowE := some e.idx, phase := .high }) ∧
  (∀ s e rest c, s.LowEnds e rest c → 1500 * s.fs < (e.idx - c) * 1000000 →
    step s = exec .lowReset s)

/-- `LOW.ATTN` (R112): a mid-length low, both bounds inclusive, with `bit_count ≠ 8`. The span is
the spec's own decision D10. -/
def Obligations.LowAttnEffect : Prop :=
  (∀ s e rest c, s.input = .edge e :: rest → s.cellS = some c →
    exec .lowAttn s = .next { s with
      input := rest, lastIdx := some e.idx, out := s.out ++ [⟨.attention, c, e.idx, 0⟩],
      bitCount := -1, byte := 0, lowE := some e.idx, phase := .high }) ∧
  (∀ s e rest c, s.LowEnds e rest c → 100 * s.fs ≤ (e.idx - c) * 1000000 →
    (e.idx - c) * 1000000 ≤ 1500 * s.fs → s.bitCount ≠ 8 → step s = exec .lowAttn s)

/-- `LOW.SRQ` (R113): a mid-length low with `bit_count = 8` before the step. The span is the
spec's own decision D10. -/
def Obligations.LowSrqEffect : Prop :=
  (∀ s e rest c, s.input = .edge e :: rest → s.cellS = some c →
    exec .lowSrq s = .next { s with
      input := rest, lastIdx := some e.idx, out := s.out ++ [⟨.serviceRequest, c, e.idx, 0⟩],
      bitCount := -1, byte := 0, lowE := some e.idx, phase := .high }) ∧
  (∀ s e rest c, s.LowEnds e rest c → 100 * s.fs ≤ (e.idx - c) * 1000000 →
    (e.idx - c) * 1000000 ≤ 1500 * s.fs → s.bitCount = 8 → step s = exec .lowSrq s)

/-- `HIGH.BIT` (R120): the bit is 0 where the low phase is strictly longer, else 1. -/
def Obligations.HighBitEffect : Prop :=
  (∀ g s e rest c l, s.input = .edge e :: rest → s.cellS = some c → s.lowE = some l →
    exec (.highBit g) s = .next { s with
      input := rest, lastIdx := some e.idx,
      out := s.out ++ [⟨.high, l, e.idx, 0⟩, ⟨.bit, c, e.idx, if g then 0 else 1⟩],
      byte := ((s.byte <<< 1) &&& 0xFF) ||| (if g then 0 else 1),
      bitCount := s.bitCount + 1, cellS := some e.idx, phase := .low }) ∧
  (∀ s e rest c l, s.CellEnds e rest c l → (e.idx - l) * 1000000 < 100 * s.fs →
    (e.idx - c) * 1000000 ≤ 130 * s.fs → s.bitCount ≠ -1 → (s.bitCount + 1) % 8 ≠ 0 →
    ∀ g, (g = true ↔ l - c > e.idx - l) → step s = exec (.highBit g) s)

/-- `HIGH.BITSTART` (R121): a bit cell met with `bit_count = -1`; three records, no `Byte`. That
the Bit record is emitted is the spec's own decision D11. -/
def Obligations.HighBitstartEffect : Prop :=
  (∀ g s e rest c l, s.input = .edge e :: rest → s.cellS = some c → s.lowE = some l →
    exec (.highBitstart g) s = .next { s with
      input := rest, lastIdx := some e.idx,
      out := s.out ++ [⟨.high, l, e.idx, 0⟩, ⟨.bit, c, e.idx, if g then 0 else 1⟩,
        ⟨.start, c, e.idx, 0⟩],
      byte := ((s.byte <<< 1) &&& 0xFF) ||| (if g then 0 else 1),
      bitCount := 0, cellS := some e.idx, phase := .low }) ∧
  (∀ s e rest c l, s.CellEnds e rest c l → (e.idx - l) * 1000000 < 100 * s.fs →
    (e.idx - c) * 1000000 ≤ 130 * s.fs → s.bitCount = -1 →
    ∀ g, (g = true ↔ l - c > e.idx - l) → step s = exec (.highBitstart g) s)

/-- `HIGH.BITBYTE` (R122): the payload is `byte` after the shift of the same step, over
`(byte_s, cell_e)`. -/
def Obligations.HighBitbyteEffect : Prop :=
  (∀ g s e rest b c l, s.input = .edge e :: rest → s.byteS = some b → s.cellS = some c →
    s.lowE = some l →
    exec (.highBitbyte g) s = .next { s with
      input := rest, lastIdx := some e.idx,
      out := s.out ++ [⟨.high, l, e.idx, 0⟩, ⟨.bit, c, e.idx, if g then 0 else 1⟩,
        ⟨.byte, b, e.idx, ((s.byte <<< 1) &&& 0xFF) ||| (if g then 0 else 1)⟩],
      byte := ((s.byte <<< 1) &&& 0xFF) ||| (if g then 0 else 1),
      bitCount := s.bitCount + 1, cellS := some e.idx, phase := .low }) ∧
  (∀ s e rest c l, s.CellEnds e rest c l → (e.idx - l) * 1000000 < 100 * s.fs →
    (e.idx - c) * 1000000 ≤ 130 * s.fs → s.bitCount ≠ -1 → (s.bitCount + 1) % 8 = 0 →
    ∀ g, (g = true ↔ l - c > e.idx - l) → step s = exec (.highBitbyte g) s)

/-- `HIGH.STOPCELL` (R123): both phases short, the cell over 130 microseconds; framing is kept. -/
def Obligations.HighStopcellEffect : Prop :=
  (∀ s e rest c l, s.input = .edge e :: rest → s.cellS = some c → s.lowE = some l →
    exec .highStopcell s = .next { s with
      input := rest, lastIdx := some e.idx,
      out := s.out ++ [⟨.high, l, e.idx, 0⟩, ⟨.stop, c, e.idx, 0⟩],
      cellS := some e.idx, phase := .low }) ∧
  (∀ s e rest c l, s.CellEnds e rest c l → (e.idx - l) * 1000000 < 100 * s.fs →
    130 * s.fs < (e.idx - c) * 1000000 → (l - c) * 1000000 < 100 * s.fs →
    step s = exec .highStopcell s)

/-- `HIGH.START` (R124): a low that is not short, a short high, a long cell; `byte` is kept (R127). -/
def Obligations.HighStartEffect : Prop :=
  (∀ s e rest c l, s.input = .edge e :: rest → s.cellS = some c → s.lowE = some l →
    exec .highStart s = .next { s with
      input := rest, lastIdx := some e.idx,
      out := s.out ++ [⟨.high, l, e.idx, 0⟩, ⟨.start, l, e.idx, 0⟩],
      bitCount := 0, cellS := some e.idx, phase := .low }) ∧
  (∀ s e rest c l, s.CellEnds e rest c l → (e.idx - l) * 1000000 < 100 * s.fs →
    130 * s.fs < (e.idx - c) * 1000000 → 100 * s.fs ≤ (l - c) * 1000000 →
    step s = exec .highStart s)

/-- `HIGH.STOPIDLE` (R125): a short low, then a high of 100 microseconds or more, whatever the
total. -/
def Obligations.HighStopidleEffect : Prop :=
  (∀ s e rest c l, s.input = .edge e :: rest → s.cellS = some c → s.lowE = some l →
    exec .highStopidle s = .next { s with
      input := rest, lastIdx := some e.idx, out := s.out ++ [⟨.stop, c, l, 0⟩],
      bitCount := -1, byte := 0, cellS := some e.idx, phase := .low }) ∧
  (∀ s e rest c l, s.CellEnds e rest c l → 100 * s.fs ≤ (e.idx - l) * 1000000 →
    (l - c) * 1000000 < 100 * s.fs → step s = exec .highStopidle s)

/-- `HIGH.IDLE` (R126): neither phase is short; no record, framing reset. -/
def Obligations.HighIdleEffect : Prop :=
  (∀ s e rest, s.input = .edge e :: rest →
    exec .highIdle s = .next { s with
      input := rest, lastIdx := some e.idx, bitCount := -1, byte := 0, cellS := some e.idx,
      phase := .low }) ∧
  (∀ s e rest c l, s.CellEnds e rest c l → 100 * s.fs ≤ (e.idx - l) * 1000000 →
    100 * s.fs ≤ (l - c) * 1000000 → step s = exec .highIdle s)

/-- The shift keeps eight bits: `(2 × byte + bit) mod 256`, and the counter goes up by one
(R140). Rests on the spec's own inference there. -/
def Obligations.ShiftIsDoublingModulo256 : Prop :=
  ∀ (s : State) (g : Bool),
    (s.shiftIn (bitOf g)).byte.toNat = (2 * s.byte.toNat + (if g then 0 else 1)) % 256 ∧
      (s.shiftIn (bitOf g)).bitCount = s.bitCount + 1

/-! ## Whole-machine rules -/

/-- Every operation, in every state (also where a register it reads has no value), runs to a next
state on an event and moves past it; with no event there it waits (R3, R42, R52). Where a
register has no value its read is a free value (log entry 3); waiting is the model's form (log
entry 13). -/
def Obligations.EveryOperationCompletesOnAnEvent : Prop :=
  ∀ (i : Instr) (s : State),
    (∀ e rest, s.input = .edge e :: rest → ∃ t, exec i s = .next t ∧ t.input = rest ∧
      t.lastIdx = some e.idx ∧ t.fs = s.fs ∧ t.fault = s.fault ∧ t.freeCount = s.freeCount ∧
      s.out <+: t.out) ∧
    (s.input = [] → exec i s = .next s)

/-- An event moves `bit_count` by one, to 0, to -1, or not at all (R144). Rests on the spec's own
inference there. -/
def Obligations.BitCountMoves : Prop :=
  ∀ s t e rest, s.input = .edge e :: rest → step s = .next t →
    t.bitCount = s.bitCount ∨ t.bitCount = s.bitCount + 1 ∨ t.bitCount = 0 ∨ t.bitCount = -1

/-- Records per event (R128, R153), and nothing emitted is retracted (R43). Rests on the spec's
own inference there. -/
def Obligations.RecordsPerEvent : Prop :=
  ∀ s t e rest, s.input = .edge e :: rest → step s = .next t →
    ∃ recs, t.out = s.out ++ recs ∧
      (s.phase = .low → e.dir = .rise → recs.length = 1) ∧
      (s.phase = .high → e.dir = .fall → recs.length ≤ 3) ∧
      (s.phase = .sync ∨ s.phase = .fault ∨ (s.phase = .low ∧ e.dir = .fall) ∨
        (s.phase = .high ∧ e.dir = .rise) → recs = [])

/-- The framing machine per cell: `bit_count` after a cell and all its records, with their spans and
values, by the classes of its two phases; a global-reset cell is never a bit cell (R146, R151). The
start of a `Byte` record is the read of `byte_s`, a free value only where it has none (log entry 3).
Rests on the spec's own inference there and on its decisions D10 and D11. -/
def Obligations.FramingMachinePerCell : Prop :=
  ∀ s rest c r f, s.Inv → s.phase = .low → s.cellS = some c → s.inOrder r = true → r ≤ f →
    s.input = .edge ⟨.rise, r⟩ :: .edge ⟨.fall, f⟩ :: rest →
    ∃ t u, step s = .next t ∧ step t = .next u ∧
      u.bitCount = cellCount s.bitCount (lowClass s.fs (r - c)) (highClass s.fs (f - r) (f - c)) ∧
      u.out = s.out ++
        cellRecords s c r f (lowClass s.fs (r - c)) (highClass s.fs (f - r) (f - c)) ∧
      ¬ (lowClass s.fs (r - c) = .reset ∧ highClass s.fs (f - r) (f - c) = .bit)

/-! ## Invariants -/

/-- The state after reset meets every invariant. The rate in State.reset is the model's choice
(log entry 1). -/
def Obligations.ResetMeetsTheInvariants : Prop :=
  State.reset.Inv ∧ State.reset.FramingInv ∧ State.reset.PayloadInv ∧ State.reset.ByteSpanInv ∧
    State.reset.OrderInv

/-- The value and index invariants (R27, R31, R32, R143). Rests on the spec's own inference
there. What ConfigError leaves in bit_count and byte is the model's choice (log entry 4). -/
def Obligations.StepKeepsTheValueInvariants : Prop :=
  ∀ s t, s.Inv → step s = .next t → t.Inv

/-- What the low-phase step leaves, and that `byte_s` is captured (R71, R148). Rests on the
spec's own inference there. -/
def Obligations.StepKeepsTheFramingInvariants : Prop :=
  ∀ s t, s.Inv → s.FramingInv → step s = .next t → t.FramingInv

/-- No register is read before it has a value: `byte_s` where a byte completes, `cell_s` and
`low_e` where they are measured (R36, R148). Rests on the spec's own inference there. -/
def Obligations.NoRegisterIsReadBeforeItHasAValue : Prop :=
  ∀ s i, s.Inv → s.FramingInv → fetch s = .run i →
    (∀ g, i = .highBitbyte g → s.byteS.isSome = true) ∧
    (i = .lowShort ∨ i = .lowReset ∨ i = .lowAttn ∨ i = .lowSrq → s.cellS.isSome = true) ∧
    ((∃ g, i = .highBit g ∨ i = .highBitstart g ∨ i = .highBitbyte g) ∨ i = .highStopcell ∨
      i = .highStart ∨ i = .highStopidle ∨ i = .highIdle →
      s.cellS.isSome = true ∧ s.lowE.isSome = true)

/-- The payload of every `Byte` record is the last eight bit values, the oldest in bit 7 (R145).
Rests on the spec's own inference there. -/
def Obligations.StepKeepsBytePayloadsRight : Prop :=
  ∀ s t, s.Inv → s.PayloadInv → step s = .next t → t.PayloadInv

/-- The span of every `Byte` record runs from the `cell_s` of the first of its eight bit cells to the
end of the last (R148). Rests on the spec's own inference there. -/
def Obligations.StepKeepsByteSpansRight : Prop :=
  ∀ s t, s.Inv → s.FramingInv → s.ByteSpanInv → step s = .next t → t.ByteSpanInv

/-- The order of the output: per-row start order, global end order, causality (R50, R152). Rests
on the spec's own inference there. -/
def Obligations.StepKeepsTheOutputOrder : Prop :=
  ∀ s t, s.Inv → s.FramingInv → s.OrderInv → step s = .next t → t.OrderInv

/-! ## Passes -/

/-- A pass is defined exactly on the event sequences whose index does not decrease (R3, R31,
R181). Rests on the spec's own decision D9 and D23. -/
def Obligations.PassIsDefinedIffOrdered : Prop :=
  ∀ fs events, (observation (pass fs events)).isSome = edgesOrdered events

/-- Causality: the output on some events is a prefix of the output on more (R154). Rests on the
spec's own inference there. -/
def Obligations.LaterEventsOnlyAppend : Prop :=
  ∀ fs events more out out', observation (pass fs events) = some out →
    observation (pass fs (events ++ more)) = some out' → out <+: out'

/-- The variant block whose global reset also clears the framing state emits the same records on
every rate and event sequence (R147). Rests on the spec's own inference there. -/
def Obligations.ResetVariantEmitsTheSameRecords : Prop :=
  ∀ fs events, observation (passWith (stepReading Reading.resetClears) fs events) =
    observation (pass fs events)

/-- The reading of decision D11 without the `Bit` record of `HIGH.BITSTART` gives the same
records but for `Bit` records. Rests on the spec's own decision D11. -/
def Obligations.BitstartReadingChangesBitRecordsOnly : Prop :=
  ∀ fs events,
    (observation (passWith (stepReading ⟨false, false⟩) fs events)).map
        (fun out => out.filter (fun a => a.kind ≠ .bit)) =
      (observation (pass fs events)).map (fun out => out.filter (fun a => a.kind ≠ .bit))

/-! ## Symmetries and realisations -/

/-- Shift invariance (R155 (a)). Rests on the spec's own inference there. -/
def Obligations.StepCommutesWithShift : Prop :=
  ∀ c s, s.Inv → s.FramingInv →
    (∀ t, step s = .next t → step (s.shift c) = .next (t.shift c)) ∧
    (∀ r, step s = .refused r → step (s.shift c) = .refused r)

/-- Rate scaling (R155 (b)). Rests on the spec's own inference there. -/
def Obligations.StepCommutesWithScaling : Prop :=
  ∀ k s, 1 ≤ k → s.Inv → s.FramingInv →
    (∀ t, step s = .next t → step (s.scale k) = .next (t.scale k)) ∧
    (∀ r, step s = .refused r → step (s.scale k) = .refused r)

/-- The laws of the 18-state fold of `bit_count` (R150). Rests on the spec's own inference there. -/
def Obligations.FoldedCounterLaws : Prop :=
  ∀ n : Int, -1 ≤ n →
    foldCount (n + 1) = succCount (foldCount n) ∧ (n = -1 ↔ foldCount n = -1) ∧
      (n = 8 ↔ foldCount n = 8) ∧ n % 8 = foldCount n % 8 ∧
      -1 ≤ foldCount n ∧ foldCount n ≤ 16

/-- The block with the 18-state counter does what this block does (R150). Rests on the spec's own
inference there. -/
def Obligations.FoldedBlockBehavesTheSame : Prop :=
  ∀ s, s.Inv →
    (∀ t, step s = .next t → stepFolded s.fold = .next t.fold) ∧
    (∀ r, step s = .refused r → stepFolded s.fold = .refused r)

/-- The integer comparisons are the comparisons of exact microseconds (R90, R91, R92). Rests on
the spec's own decision D4. -/
def Obligations.ComparisonsAreExact : Prop :=
  ∀ fs d t : Nat, 0 < fs →
    toUs fs d = (d : ℚ) * 1000000 / (fs : ℚ) ∧
    (usLt fs d t = true ↔ toUs fs d < (t : ℚ)) ∧
    (usLe fs d t = true ↔ toUs fs d ≤ (t : ℚ)) ∧
    (usGt fs d t = true ↔ toUs fs d > (t : ℚ))

/-- The laws of the comparisons (R94). Rests on the spec's own inference there. -/
def Obligations.ComparisonLaws : Prop :=
  ∀ fs d d₁ d₂ t t' : Nat, 0 < fs → t ≤ t' →
    (usGt fs d t = true ↔ ¬ usLe fs d t = true) ∧
    (usLt fs d t = true → usLe fs d t = true) ∧
    (d₁ ≤ d₂ → usLt fs d₂ t = true → usLt fs d₁ t = true) ∧
    (d₁ ≤ d₂ → usLe fs d₂ t = true → usLe fs d₁ t = true) ∧
    (usLt fs d t = true → usLt fs d t' = true) ∧
    (usGt fs d t' = true → usGt fs d t = true) ∧
    toUs fs (d₁ + d₂) = toUs fs d₁ + toUs fs d₂ ∧
    (0 < t → usLt fs 0 t = true)

/-- The precomputed limits (R93). Rests on the spec's own inference there. -/
def Obligations.PrecomputedLimits : Prop :=
  ∀ fs d t : Nat,
    (usLt fs d t = true ↔ d < ceilLimit t fs) ∧
    (usLe fs d t = true ↔ d ≤ floorLimit t fs) ∧
    (usGt fs d t = true ↔ d > floorLimit t fs) ∧
    (phaseShort fs d = true ↔ d < limitA fs) ∧
    (phaseReset fs d = true ↔ d > limitB fs) ∧
    (cellIsBit fs d = true ↔ d ≤ limitT fs)

/-- A duration that saturates above `N_B` classifies alike (R141). Rests on the spec's own
inference there. -/
def Obligations.SaturationKeepsTheClasses : Prop :=
  ∀ fs d : Nat,
    phaseShort fs (saturate fs d) = phaseShort fs d ∧
    phaseReset fs (saturate fs d) = phaseReset fs d ∧
    cellIsBit fs (saturate fs d) = cellIsBit fs d

/-- The product widths of rule R141 lose no bit. Rests on the spec's own inference there. -/
def Obligations.ProductWidthsSuffice : Prop :=
  ∀ (w v : Nat) (d : BitVec w) (fs : BitVec v) (t : Nat), t ≤ 1500 →
    (wideDuration w d).toNat = d.toNat * 1000000 ∧
    (wideThreshold v fs t).toNat = t * fs.toNat

/-- The sampled-level front end: one event at each sample that differs from the one before, with
its direction, in strictly increasing order (R103). Rests on the spec's own decision D3. -/
def Obligations.FrontEndEventsAreTheLevelChanges : Prop :=
  ∀ levels : List Bool,
    (∀ e : Edge, e ∈ edgesOfLevels levels ↔
      1 ≤ e.idx ∧ ∃ was now, levels[e.idx - 1]? = some was ∧ levels[e.idx]? = some now ∧
        now ≠ was ∧ e.dir = (if now then .rise else .fall)) ∧
    (edgesOfLevels levels).Pairwise (fun a b => a.idx < b.idx) ∧
    ((edgesOfLevels levels).map (fun e => e.dir)).IsChain (fun a b => a ≠ b)
end

