-- ==== Sys2Proof/Laws/Decode.lean ====
section
/-! SUPPORT. The fields of a packed select word, and what the decoder answers on one: proofs about
selection cite these and never unfold the word. -/

namespace Sys2Proof.Osw

variable (p : BitVec 2) (d a b q h t m z g : Bool)

@[simp] theorem pack_p : (pack p d a b q h t m z g).p = p := by
  ext i hi
  simp only [pack, Osw.p, BitVec.getElem_extractLsb', BitVec.getLsbD_append]
  have : i = 0 ∨ i = 1 := by omega
  rcases this with rfl | rfl <;> simp

@[simp] theorem pack_d : (pack p d a b q h t m z g).d = d := by
  simp only [pack, Osw.d, BitVec.getLsbD_append]
  simp

@[simp] theorem pack_a : (pack p d a b q h t m z g).a = a := by
  simp only [pack, Osw.a, BitVec.getLsbD_append]
  simp

@[simp] theorem pack_b : (pack p d a b q h t m z g).b = b := by
  simp only [pack, Osw.b, BitVec.getLsbD_append]
  simp

@[simp] theorem pack_q : (pack p d a b q h t m z g).q = q := by
  simp only [pack, Osw.q, BitVec.getLsbD_append]
  simp

@[simp] theorem pack_h : (pack p d a b q h t m z g).h = h := by
  simp only [pack, Osw.h, BitVec.getLsbD_append]
  simp

@[simp] theorem pack_t : (pack p d a b q h t m z g).t = t := by
  simp only [pack, Osw.t, BitVec.getLsbD_append]
  simp

@[simp] theorem pack_m : (pack p d a b q h t m z g).m = m := by
  simp only [pack, Osw.m, BitVec.getLsbD_append]
  simp

@[simp] theorem pack_z : (pack p d a b q h t m z g).z = z := by
  simp only [pack, Osw.z, BitVec.getLsbD_append]
  simp

@[simp] theorem pack_g : (pack p d a b q h t m z g).g = g := by
  simp only [pack, Osw.g, BitVec.getLsbD_append]
  simp

end Sys2Proof.Osw

namespace Sys2Proof

variable (d a b q h t m z g : Bool)

/-- Phase SYNC: the direction alone selects. -/
theorem decode_pack_sync :
    decode (Osw.pack (Machine.Phase.code .sync) d a b q h t m z g)
      = if d then .seqSkipSync else .seqSync := by
  simp [decode, Machine.Phase.code]

/-- Phase FAULT: every word is `SEQ.DEAD`. -/
theorem decode_pack_fault :
    decode (Osw.pack (Machine.Phase.code .fault) d a b q h t m z g) = .seqDead := by
  simp [decode, Machine.Phase.code]

/-- Phase LOW: a falling edge is skipped; at a rising edge `A`, then `B`, then `Q` select. -/
theorem decode_pack_low :
    decode (Osw.pack (Machine.Phase.code .low) d a b q h t m z g)
      = if d then (if a then .lowShort else if b then .lowReset else if q then .lowSrq
          else .lowAttn)
        else .seqSkipLow := by
  simp [decode, decodeLow, Machine.Phase.code]

/-- Phase HIGH: a rising edge is skipped; at a falling edge `H`, `T`, `M`, `Z` and `A` select. -/
theorem decode_pack_high :
    decode (Osw.pack (Machine.Phase.code .high) d a b q h t m z g)
      = if d then .seqSkipHigh
        else if h then
          (if t then (if m then .highBitstart g else if z then .highBitbyte g else .highBit g)
           else if a then .highStopcell else .highStart)
        else if a then .highStopidle else .highIdle := by
  simp [decode, decodeHigh, Machine.Phase.code]

end Sys2Proof
end

