-- ==== Sys2Proof/Laws/Flags.lean ====
section
/-! SUPPORT. What each comparison and predicate says, as arithmetic: proofs rewrite with these and do
not unfold the predicates. -/

namespace Sys2Proof.Machine

variable {fs d t dl dh : Nat} {n : Int}

theorem usLt_iff : usLt fs d t = true ↔ d * 1000000 < t * fs := by simp [usLt]

theorem usLe_iff : usLe fs d t = true ↔ d * 1000000 ≤ t * fs := by simp [usLe]

theorem usGt_iff : usGt fs d t = true ↔ t * fs < d * 1000000 := by simp [usGt]

theorem phaseShort_iff : phaseShort fs d = true ↔ d * 1000000 < 100 * fs := by
  simp [phaseShort, usLt]

theorem phaseShort_false_iff : phaseShort fs d = false ↔ 100 * fs ≤ d * 1000000 := by
  rw [← Bool.not_eq_true, phaseShort_iff]; omega

theorem phaseReset_iff : phaseReset fs d = true ↔ 1500 * fs < d * 1000000 := by
  simp [phaseReset, usGt]

theorem phaseReset_false_iff : phaseReset fs d = false ↔ d * 1000000 ≤ 1500 * fs := by
  rw [← Bool.not_eq_true, phaseReset_iff]; omega

theorem cellIsBit_iff : cellIsBit fs d = true ↔ d * 1000000 ≤ 130 * fs := by
  simp [cellIsBit, usLe]

theorem cellIsBit_false_iff : cellIsBit fs d = false ↔ 130 * fs < d * 1000000 := by
  rw [← Bool.not_eq_true, cellIsBit_iff]; omega

theorem srqPosition_iff : srqPosition n = true ↔ n = 8 := by simp [srqPosition]

theorem srqPosition_false_iff : srqPosition n = false ↔ n ≠ 8 := by simp [srqPosition]

theorem counterIdle_iff : counterIdle n = true ↔ n = -1 := by simp [counterIdle]

theorem counterIdle_false_iff : counterIdle n = false ↔ n ≠ -1 := by simp [counterIdle]

theorem onByteBoundary_iff : onByteBoundary n = true ↔ n % 8 = 0 := by
  exact beq_iff_eq

theorem onByteBoundary_false_iff : onByteBoundary n = false ↔ n % 8 ≠ 0 := by
  exact beq_eq_false_iff_ne

theorem byteCompletes_iff : byteCompletes n = true ↔ (n + 1) % 8 = 0 := onByteBoundary_iff

theorem byteCompletes_false_iff : byteCompletes n = false ↔ (n + 1) % 8 ≠ 0 :=
  onByteBoundary_false_iff

theorem lowLonger_iff : lowLonger dl dh = true ↔ dh < dl := by simp [lowLonger]

theorem lowLonger_false_iff : lowLonger dl dh = false ↔ dl ≤ dh := by
  rw [← Bool.not_eq_true, lowLonger_iff]; omega

end Sys2Proof.Machine
end

