-- ==== Sys2Proof/Laws/State.lean ====
section
/-! SUPPORT. One lemma per field per update of State, each true by unfolding the update once, so that
no later proof unfolds one; and what a register read gives. -/

namespace Sys2Proof.Machine.State

variable (s : State)

@[simp] theorem readByteS_of_some (b : Nat) (h : s.byteS = some b) : s.readByteS = b := by
  simp [readByteS, h]

@[simp] theorem readCellS_of_some (c : Nat) (h : s.cellS = some c) : s.readCellS = c := by
  simp [readCellS, h]

@[simp] theorem readLowE_of_some (l : Nat) (h : s.lowE = some l) : s.readLowE = l := by
  simp [readLowE, h]

/-! `emit` -/

@[simp] theorem emit_fs (k : Kind) (a b : Nat) (v : Byte) : (s.emit k a b v).fs = s.fs := rfl
@[simp] theorem emit_phase (k : Kind) (a b : Nat) (v : Byte) :
    (s.emit k a b v).phase = s.phase := rfl
@[simp] theorem emit_fault (k : Kind) (a b : Nat) (v : Byte) :
    (s.emit k a b v).fault = s.fault := rfl
@[simp] theorem emit_byte (k : Kind) (a b : Nat) (v : Byte) :
    (s.emit k a b v).byte = s.byte := rfl
@[simp] theorem emit_bitCount (k : Kind) (a b : Nat) (v : Byte) :
    (s.emit k a b v).bitCount = s.bitCount := rfl
@[simp] theorem emit_byteS (k : Kind) (a b : Nat) (v : Byte) :
    (s.emit k a b v).byteS = s.byteS := rfl
@[simp] theorem emit_cellS (k : Kind) (a b : Nat) (v : Byte) :
    (s.emit k a b v).cellS = s.cellS := rfl
@[simp] theorem emit_lowE (k : Kind) (a b : Nat) (v : Byte) :
    (s.emit k a b v).lowE = s.lowE := rfl
@[simp] theorem emit_lastIdx (k : Kind) (a b : Nat) (v : Byte) :
    (s.emit k a b v).lastIdx = s.lastIdx := rfl
@[simp] theorem emit_input (k : Kind) (a b : Nat) (v : Byte) :
    (s.emit k a b v).input = s.input := rfl
@[simp] theorem emit_out (k : Kind) (a b : Nat) (v : Byte) :
    (s.emit k a b v).out = s.out ++ [⟨k, a, b, v⟩] := rfl
@[simp] theorem emit_freeCount (k : Kind) (a b : Nat) (v : Byte) :
    (s.emit k a b v).freeCount = s.freeCount := rfl
@[simp] theorem emit_readByteS (k : Kind) (a b : Nat) (v : Byte) : (s.emit k a b v).readByteS = s.readByteS := rfl
@[simp] theorem emit_readCellS (k : Kind) (a b : Nat) (v : Byte) : (s.emit k a b v).readCellS = s.readCellS := rfl
@[simp] theorem emit_readLowE (k : Kind) (a b : Nat) (v : Byte) : (s.emit k a b v).readLowE = s.readLowE := rfl

/-! `framingReset` -/

@[simp] theorem framingReset_fs : s.framingReset.fs = s.fs := rfl
@[simp] theorem framingReset_phase : s.framingReset.phase = s.phase := rfl
@[simp] theorem framingReset_fault : s.framingReset.fault = s.fault := rfl
@[simp] theorem framingReset_byte : s.framingReset.byte = 0 := rfl
@[simp] theorem framingReset_bitCount : s.framingReset.bitCount = -1 := rfl
@[simp] theorem framingReset_byteS : s.framingReset.byteS = s.byteS := rfl
@[simp] theorem framingReset_cellS : s.framingReset.cellS = s.cellS := rfl
@[simp] theorem framingReset_lowE : s.framingReset.lowE = s.lowE := rfl
@[simp] theorem framingReset_lastIdx : s.framingReset.lastIdx = s.lastIdx := rfl
@[simp] theorem framingReset_input : s.framingReset.input = s.input := rfl
@[simp] theorem framingReset_out : s.framingReset.out = s.out := rfl
@[simp] theorem framingReset_freeCount : s.framingReset.freeCount = s.freeCount := rfl
@[simp] theorem framingReset_readByteS : s.framingReset.readByteS = s.readByteS := rfl
@[simp] theorem framingReset_readCellS : s.framingReset.readCellS = s.readCellS := rfl
@[simp] theorem framingReset_readLowE : s.framingReset.readLowE = s.readLowE := rfl

/-! `captureByteS` -/

@[simp] theorem captureByteS_fs : s.captureByteS.fs = s.fs := rfl
@[simp] theorem captureByteS_phase : s.captureByteS.phase = s.phase := rfl
@[simp] theorem captureByteS_fault : s.captureByteS.fault = s.fault := rfl
@[simp] theorem captureByteS_byte : s.captureByteS.byte = s.byte := rfl
@[simp] theorem captureByteS_bitCount : s.captureByteS.bitCount = s.bitCount := rfl
@[simp] theorem captureByteS_byteS :
    s.captureByteS.byteS = if onByteBoundary s.bitCount then some s.readCellS else s.byteS := rfl
@[simp] theorem captureByteS_cellS : s.captureByteS.cellS = s.cellS := rfl
@[simp] theorem captureByteS_lowE : s.captureByteS.lowE = s.lowE := rfl
@[simp] theorem captureByteS_lastIdx : s.captureByteS.lastIdx = s.lastIdx := rfl
@[simp] theorem captureByteS_input : s.captureByteS.input = s.input := rfl
@[simp] theorem captureByteS_out : s.captureByteS.out = s.out := rfl
@[simp] theorem captureByteS_freeCount : s.captureByteS.freeCount = s.freeCount := rfl
@[simp] theorem captureByteS_readCellS : s.captureByteS.readCellS = s.readCellS := rfl
@[simp] theorem captureByteS_readLowE : s.captureByteS.readLowE = s.readLowE := rfl

/-! `shiftIn` -/

@[simp] theorem shiftIn_fs (b : Byte) : (s.shiftIn b).fs = s.fs := rfl
@[simp] theorem shiftIn_phase (b : Byte) : (s.shiftIn b).phase = s.phase := rfl
@[simp] theorem shiftIn_fault (b : Byte) : (s.shiftIn b).fault = s.fault := rfl
@[simp] theorem shiftIn_byte (b : Byte) :
    (s.shiftIn b).byte = ((s.byte <<< 1) &&& Config.byteMask) ||| b := rfl
@[simp] theorem shiftIn_bitCount (b : Byte) : (s.shiftIn b).bitCount = s.bitCount + 1 := rfl
@[simp] theorem shiftIn_byteS (b : Byte) : (s.shiftIn b).byteS = s.byteS := rfl
@[simp] theorem shiftIn_cellS (b : Byte) : (s.shiftIn b).cellS = s.cellS := rfl
@[simp] theorem shiftIn_lowE (b : Byte) : (s.shiftIn b).lowE = s.lowE := rfl
@[simp] theorem shiftIn_lastIdx (b : Byte) : (s.shiftIn b).lastIdx = s.lastIdx := rfl
@[simp] theorem shiftIn_input (b : Byte) : (s.shiftIn b).input = s.input := rfl
@[simp] theorem shiftIn_out (b : Byte) : (s.shiftIn b).out = s.out := rfl
@[simp] theorem shiftIn_freeCount (b : Byte) : (s.shiftIn b).freeCount = s.freeCount := rfl
@[simp] theorem shiftIn_readByteS (b : Byte) : (s.shiftIn b).readByteS = s.readByteS := rfl
@[simp] theorem shiftIn_readCellS (b : Byte) : (s.shiftIn b).readCellS = s.readCellS := rfl
@[simp] theorem shiftIn_readLowE (b : Byte) : (s.shiftIn b).readLowE = s.readLowE := rfl

/-! `setBitCount` -/

@[simp] theorem setBitCount_fs (n : Int) : (s.setBitCount n).fs = s.fs := rfl
@[simp] theorem setBitCount_phase (n : Int) : (s.setBitCount n).phase = s.phase := rfl
@[simp] theorem setBitCount_fault (n : Int) : (s.setBitCount n).fault = s.fault := rfl
@[simp] theorem setBitCount_byte (n : Int) : (s.setBitCount n).byte = s.byte := rfl
@[simp] theorem setBitCount_bitCount (n : Int) : (s.setBitCount n).bitCount = n := rfl
@[simp] theorem setBitCount_byteS (n : Int) : (s.setBitCount n).byteS = s.byteS := rfl
@[simp] theorem setBitCount_cellS (n : Int) : (s.setBitCount n).cellS = s.cellS := rfl
@[simp] theorem setBitCount_lowE (n : Int) : (s.setBitCount n).lowE = s.lowE := rfl
@[simp] theorem setBitCount_lastIdx (n : Int) : (s.setBitCount n).lastIdx = s.lastIdx := rfl
@[simp] theorem setBitCount_input (n : Int) : (s.setBitCount n).input = s.input := rfl
@[simp] theorem setBitCount_out (n : Int) : (s.setBitCount n).out = s.out := rfl
@[simp] theorem setBitCount_freeCount (n : Int) : (s.setBitCount n).freeCount = s.freeCount := rfl
@[simp] theorem setBitCount_readByteS (n : Int) : (s.setBitCount n).readByteS = s.readByteS := rfl
@[simp] theorem setBitCount_readCellS (n : Int) : (s.setBitCount n).readCellS = s.readCellS := rfl
@[simp] theorem setBitCount_readLowE (n : Int) : (s.setBitCount n).readLowE = s.readLowE := rfl

/-! `endLow` -/

@[simp] theorem endLow_fs (n : Nat) : (s.endLow n).fs = s.fs := rfl
@[simp] theorem endLow_phase (n : Nat) : (s.endLow n).phase = .high := rfl
@[simp] theorem endLow_fault (n : Nat) : (s.endLow n).fault = s.fault := rfl
@[simp] theorem endLow_byte (n : Nat) : (s.endLow n).byte = s.byte := rfl
@[simp] theorem endLow_bitCount (n : Nat) : (s.endLow n).bitCount = s.bitCount := rfl
@[simp] theorem endLow_byteS (n : Nat) : (s.endLow n).byteS = s.byteS := rfl
@[simp] theorem endLow_cellS (n : Nat) : (s.endLow n).cellS = s.cellS := rfl
@[simp] theorem endLow_lowE (n : Nat) : (s.endLow n).lowE = some n := rfl
@[simp] theorem endLow_lastIdx (n : Nat) : (s.endLow n).lastIdx = s.lastIdx := rfl
@[simp] theorem endLow_input (n : Nat) : (s.endLow n).input = s.input := rfl
@[simp] theorem endLow_out (n : Nat) : (s.endLow n).out = s.out := rfl
@[simp] theorem endLow_freeCount (n : Nat) : (s.endLow n).freeCount = s.freeCount := rfl
@[simp] theorem endLow_readByteS (n : Nat) : (s.endLow n).readByteS = s.readByteS := rfl
@[simp] theorem endLow_readCellS (n : Nat) : (s.endLow n).readCellS = s.readCellS := rfl

/-! `beginCell` -/

@[simp] theorem beginCell_fs (n : Nat) : (s.beginCell n).fs = s.fs := rfl
@[simp] theorem beginCell_phase (n : Nat) : (s.beginCell n).phase = .low := rfl
@[simp] theorem beginCell_fault (n : Nat) : (s.beginCell n).fault = s.fault := rfl
@[simp] theorem beginCell_byte (n : Nat) : (s.beginCell n).byte = s.byte := rfl
@[simp] theorem beginCell_bitCount (n : Nat) : (s.beginCell n).bitCount = s.bitCount := rfl
@[simp] theorem beginCell_byteS (n : Nat) : (s.beginCell n).byteS = s.byteS := rfl
@[simp] theorem beginCell_cellS (n : Nat) : (s.beginCell n).cellS = some n := rfl
@[simp] theorem beginCell_lowE (n : Nat) : (s.beginCell n).lowE = s.lowE := rfl
@[simp] theorem beginCell_lastIdx (n : Nat) : (s.beginCell n).lastIdx = s.lastIdx := rfl
@[simp] theorem beginCell_input (n : Nat) : (s.beginCell n).input = s.input := rfl
@[simp] theorem beginCell_out (n : Nat) : (s.beginCell n).out = s.out := rfl
@[simp] theorem beginCell_freeCount (n : Nat) : (s.beginCell n).freeCount = s.freeCount := rfl
@[simp] theorem beginCell_readByteS (n : Nat) : (s.beginCell n).readByteS = s.readByteS := rfl
@[simp] theorem beginCell_readLowE (n : Nat) : (s.beginCell n).readLowE = s.readLowE := rfl

/-! `consume` -/

@[simp] theorem consume_fs (e : Edge) (r : List Input) : (s.consume e r).fs = s.fs := rfl
@[simp] theorem consume_phase (e : Edge) (r : List Input) : (s.consume e r).phase = s.phase := rfl
@[simp] theorem consume_fault (e : Edge) (r : List Input) : (s.consume e r).fault = s.fault := rfl
@[simp] theorem consume_byte (e : Edge) (r : List Input) : (s.consume e r).byte = s.byte := rfl
@[simp] theorem consume_bitCount (e : Edge) (r : List Input) :
    (s.consume e r).bitCount = s.bitCount := rfl
@[simp] theorem consume_byteS (e : Edge) (r : List Input) : (s.consume e r).byteS = s.byteS := rfl
@[simp] theorem consume_cellS (e : Edge) (r : List Input) : (s.consume e r).cellS = s.cellS := rfl
@[simp] theorem consume_lowE (e : Edge) (r : List Input) : (s.consume e r).lowE = s.lowE := rfl
@[simp] theorem consume_lastIdx (e : Edge) (r : List Input) :
    (s.consume e r).lastIdx = some e.idx := rfl
@[simp] theorem consume_input (e : Edge) (r : List Input) : (s.consume e r).input = r := rfl
@[simp] theorem consume_out (e : Edge) (r : List Input) : (s.consume e r).out = s.out := rfl
@[simp] theorem consume_freeCount (e : Edge) (r : List Input) :
    (s.consume e r).freeCount = s.freeCount := rfl
@[simp] theorem consume_readByteS (e : Edge) (r : List Input) : (s.consume e r).readByteS = s.readByteS := rfl
@[simp] theorem consume_readCellS (e : Edge) (r : List Input) : (s.consume e r).readCellS = s.readCellS := rfl
@[simp] theorem consume_readLowE (e : Edge) (r : List Input) : (s.consume e r).readLowE = s.readLowE := rfl

/-! `initialise` -/

@[simp] theorem initialise_fs : s.initialise.fs = s.fs := rfl
@[simp] theorem initialise_phase : s.initialise.phase = .sync := rfl
@[simp] theorem initialise_fault : s.initialise.fault = .noFault := rfl
@[simp] theorem initialise_byte : s.initialise.byte = 0 := rfl
@[simp] theorem initialise_bitCount : s.initialise.bitCount = 0 := rfl
@[simp] theorem initialise_byteS : s.initialise.byteS = none := rfl
@[simp] theorem initialise_cellS : s.initialise.cellS = none := rfl
@[simp] theorem initialise_lowE : s.initialise.lowE = none := rfl
@[simp] theorem initialise_lastIdx : s.initialise.lastIdx = s.lastIdx := rfl
@[simp] theorem initialise_input : s.initialise.input = s.input := rfl
@[simp] theorem initialise_out : s.initialise.out = s.out := rfl
@[simp] theorem initialise_freeCount : s.initialise.freeCount = s.freeCount := rfl

/-! `newPass` -/

@[simp] theorem newPass_fs (n : Nat) : (s.newPass n).fs = n := rfl
@[simp] theorem newPass_phase (n : Nat) : (s.newPass n).phase = s.phase := rfl
@[simp] theorem newPass_fault (n : Nat) : (s.newPass n).fault = s.fault := rfl
@[simp] theorem newPass_byte (n : Nat) : (s.newPass n).byte = s.byte := rfl
@[simp] theorem newPass_bitCount (n : Nat) : (s.newPass n).bitCount = s.bitCount := rfl
@[simp] theorem newPass_byteS (n : Nat) : (s.newPass n).byteS = s.byteS := rfl
@[simp] theorem newPass_cellS (n : Nat) : (s.newPass n).cellS = s.cellS := rfl
@[simp] theorem newPass_lowE (n : Nat) : (s.newPass n).lowE = s.lowE := rfl
@[simp] theorem newPass_lastIdx (n : Nat) : (s.newPass n).lastIdx = none := rfl
@[simp] theorem newPass_input (n : Nat) : (s.newPass n).input = s.input.tail := rfl
@[simp] theorem newPass_out (n : Nat) : (s.newPass n).out = [] := rfl
@[simp] theorem newPass_freeCount (n : Nat) : (s.newPass n).freeCount = s.freeCount := rfl
@[simp] theorem newPass_readByteS (n : Nat) : (s.newPass n).readByteS = s.readByteS := rfl
@[simp] theorem newPass_readCellS (n : Nat) : (s.newPass n).readCellS = s.readCellS := rfl
@[simp] theorem newPass_readLowE (n : Nat) : (s.newPass n).readLowE = s.readLowE := rfl

/-! `raiseConfigError` -/

@[simp] theorem raiseConfigError_fs : s.raiseConfigError.fs = s.fs := rfl
@[simp] theorem raiseConfigError_phase : s.raiseConfigError.phase = .fault := rfl
@[simp] theorem raiseConfigError_fault : s.raiseConfigError.fault = .configError := rfl
@[simp] theorem raiseConfigError_byte : s.raiseConfigError.byte = faultByteOf s.freeCount := rfl
@[simp] theorem raiseConfigError_bitCount :
    s.raiseConfigError.bitCount = faultBitCount s.freeCount := rfl
@[simp] theorem raiseConfigError_byteS : s.raiseConfigError.byteS = none := rfl
@[simp] theorem raiseConfigError_cellS : s.raiseConfigError.cellS = none := rfl
@[simp] theorem raiseConfigError_lowE : s.raiseConfigError.lowE = none := rfl
@[simp] theorem raiseConfigError_lastIdx : s.raiseConfigError.lastIdx = s.lastIdx := rfl
@[simp] theorem raiseConfigError_input : s.raiseConfigError.input = s.input := rfl
@[simp] theorem raiseConfigError_out : s.raiseConfigError.out = s.out := rfl
@[simp] theorem raiseConfigError_freeCount : s.raiseConfigError.freeCount = s.freeCount + 1 := rfl

end Sys2Proof.Machine.State
end

