-- ==== Sys2Proof/Laws/Ops.lean ====
section
/-! SUPPORT. What each shared operation, fetching and the step can do, said once: proofs cite these
and do not unfold the operations. -/

namespace Sys2Proof.Machine

variable {s t : State} {e : Edge} {rest : List Input} {f : Edge → State → State}

/-- With an event at the head, an operation runs on it. -/
theorem onEdge_edge (h : s.input = .edge e :: rest) :
    onEdge s f = .next (f e (s.consume e rest)) := by
  simp [onEdge, h]

/-- An operation always answers a next state. -/
theorem onEdge_isNext (s : State) (f : Edge → State → State) : ∃ t, onEdge s f = .next t := by
  unfold onEdge
  split <;> exact ⟨_, rfl⟩

/-- What an operation's next state is: its effect on the event at the head, or, with no event there,
the state unchanged. -/
theorem onEdge_next (h : onEdge s f = .next t) :
    (∃ e rest, s.input = .edge e :: rest ∧ t = f e (s.consume e rest)) ∨
      (t = s ∧ ∀ e rest, s.input ≠ .edge e :: rest) := by
  unfold onEdge at h
  split at h
  · next e rest hi =>
    cases h
    exact .inl ⟨e, rest, hi, rfl⟩
  · next fs rest hi =>
    cases h
    exact .inr ⟨rfl, by simp [hi]⟩
  · next hi =>
    cases h
    exact .inr ⟨rfl, by simp [hi]⟩

/-- Pass start without a rate raises ConfigError. -/
theorem startPass_zero (s : State) : startPass 0 s = (s.newPass 0).raiseConfigError := by
  simp [startPass]

/-- Pass start with a rate initialises the registers. -/
theorem startPass_pos {fs : Nat} (h : fs ≠ 0) (s : State) :
    startPass fs s = (s.newPass fs).initialise := by
  simp [startPass, h]

theorem fetch_nil (h : s.input = []) : fetch s = .wait := by simp [fetch, h]

theorem fetch_start {fs : Nat} (h : s.input = .start fs :: rest) : fetch s = .start fs := by
  simp [fetch, h]

theorem fetch_accepted (h : s.input = .edge e :: rest) (ha : s.accepts e = true) :
    fetch s = .run (decode (assemble s e)) := by
  simp [fetch, h, ha]

theorem fetch_refused (h : s.input = .edge e :: rest) (ha : s.accepts e = false) :
    fetch s = .refuse .nonMonotonicIndex := by
  simp [fetch, h, ha]

/-- When an operation is fetched: an accepted event is at the head and selects it. -/
theorem fetch_run {i : Instr} (h : fetch s = .run i) :
    ∃ e rest, s.input = .edge e :: rest ∧ s.accepts e = true ∧ i = decode (assemble s e) := by
  unfold fetch at h
  split at h
  · cases h
  · cases h
  · next e rest hi =>
    split at h
    · next ha =>
      cases h
      exact ⟨e, rest, hi, ha, rfl⟩
    · cases h

/-- Everything a step can do when it answers a next state: wait, start a pass, or run the operation
an accepted event selects. -/
theorem step_cases (h : step s = .next t) :
    (s.input = [] ∧ t = s) ∨
      (∃ fs rest, s.input = .start fs :: rest ∧ t = startPass fs s) ∨
      (∃ e rest, s.input = .edge e :: rest ∧ s.accepts e = true ∧
        exec (decode (assemble s e)) s = .next t) := by
  cases hi : s.input with
  | nil =>
    simp only [step, fetch_nil hi] at h
    cases h
    exact .inl ⟨rfl, rfl⟩
  | cons x rest =>
    cases x with
    | start fs =>
      simp only [step, fetch_start hi] at h
      cases h
      exact .inr (.inl ⟨fs, rest, rfl, rfl⟩)
    | edge e =>
      cases ha : s.accepts e with
      | true =>
        simp only [step, fetch_accepted hi ha] at h
        exact .inr (.inr ⟨e, rest, rfl, ha, h⟩)
      | false =>
        simp only [step, fetch_refused hi ha] at h
        cases h

/-- The word of a rising edge in phase LOW (rules R63 to R67). -/
theorem assemble_low (hp : s.phase = .low) (hd : e.dir = .rise) :
    assemble s e = Osw.pack (Phase.code .low) true (phaseShort s.fs (s.lowSoFar e.idx))
      (phaseReset s.fs (s.lowSoFar e.idx)) (srqPosition s.bitCount) false false false false
      false := by
  simp [assemble, hp, hd]

/-- The word of a falling edge in phase HIGH (rules R63 to R67). -/
theorem assemble_high (hp : s.phase = .high) (hd : e.dir = .fall) :
    assemble s e = Osw.pack (Phase.code .high) false (phaseShort s.fs s.dl) false false
      (phaseShort s.fs (s.dh e.idx)) (cellIsBit s.fs (s.dt e.idx)) (counterIdle s.bitCount)
      (byteCompletes s.bitCount) (lowLonger s.dl (s.dh e.idx)) := by
  simp [assemble, hp, hd]

/-- The word of an event the phase does not wait for, or in phases SYNC and FAULT: `P` and `D`
alone. -/
theorem assemble_other (h : ¬ (s.phase = .low ∧ e.dir = .rise))
    (h' : ¬ (s.phase = .high ∧ e.dir = .fall)) :
    assemble s e = Osw.pack s.phase.code e.dir.bit false false false false false false false
      false := by
  unfold assemble
  split <;> simp_all

/-- The order an event must keep: at least the previous event's index, if there is one. -/
theorem inOrder_iff {idx : Nat} :
    s.inOrder idx = true ↔ ∀ p, s.lastIdx = some p → p ≤ idx := by
  cases h : s.lastIdx <;> simp [State.inOrder, h]

/-- Both have a value and the first is at most the second. -/
theorem optLe_iff {a b : Option Nat} :
    optLe a b = true ↔ ∃ x y, a = some x ∧ b = some y ∧ x ≤ y := by
  cases a <;> cases b <;> simp [optLe]

@[simp] theorem optLe_some_some {a b : Nat} : optLe (some a) (some b) = true ↔ a ≤ b := by
  simp [optLe]

/-- The event that ends a low phase is accepted. -/
theorem State.LowEnds.accepts {c : Nat} (h : s.LowEnds e rest c) : s.accepts e = true := by
  simp [State.accepts, h.faces.order, State.measurable, h.phase, h.dir, State.readCellS, h.cellS,
    h.le]

/-- The event that ends a cell is accepted. -/
theorem State.CellEnds.accepts {c l : Nat} (h : s.CellEnds e rest c l) : s.accepts e = true := by
  simp [State.accepts, h.faces.order, State.measurable, h.phase, h.dir, State.readCellS,
    State.readLowE, h.cellS, h.lowE, h.le₁, h.le₂]

end Sys2Proof.Machine
end

