-- ==== Sys2Proof/Laws/PerInstr.lean ====
section
/-! SUPPORT. Statements about every operation as syntax, one lemma per constructor: an operation's
own word, with every `x` field 0, decodes to it (spec/30_encoding.md rule R70). -/

namespace Sys2Proof.Laws.OwnWord

/-- The word the encoder gives an operation decodes to that operation. -/
def Statement (i : Instr) : Prop := decode (encode i) = i

theorem seqSync : Statement .seqSync := by unfold Statement; decide
theorem seqSkipSync : Statement .seqSkipSync := by unfold Statement; decide
theorem seqSkipLow : Statement .seqSkipLow := by unfold Statement; decide
theorem seqSkipHigh : Statement .seqSkipHigh := by unfold Statement; decide
theorem seqDead : Statement .seqDead := by unfold Statement; decide
theorem lowShort : Statement .lowShort := by unfold Statement; decide
theorem lowReset : Statement .lowReset := by unfold Statement; decide
theorem lowAttn : Statement .lowAttn := by unfold Statement; decide
theorem lowSrq : Statement .lowSrq := by unfold Statement; decide
theorem highBit (g : Bool) : Statement (.highBit g) := by
  unfold Statement; revert g; decide
theorem highBitstart (g : Bool) : Statement (.highBitstart g) := by
  unfold Statement; revert g; decide
theorem highBitbyte (g : Bool) : Statement (.highBitbyte g) := by
  unfold Statement; revert g; decide
theorem highStopcell : Statement .highStopcell := by unfold Statement; decide
theorem highStart : Statement .highStart := by unfold Statement; decide
theorem highStopidle : Statement .highStopidle := by unfold Statement; decide
theorem highIdle : Statement .highIdle := by unfold Statement; decide

end Sys2Proof.Laws.OwnWord
end

