-- ==== Sys2Proof/Laws/Placed.lean ====
section
/-! SUPPORT. The fields of the placed situations that fetching reads, each true by unfolding the
placement once. -/

namespace Sys2Proof.Machine.State

variable (s : State) (n : Int) (dl dh : Nat) (p : Phase) (f : FaultCode) (d : Dir)

@[simp] theorem placedLow_fs : (s.placedLow n dl).fs = 1000000 := rfl
@[simp] theorem placedLow_phase : (s.placedLow n dl).phase = .low := rfl
@[simp] theorem placedLow_bitCount : (s.placedLow n dl).bitCount = n := rfl
@[simp] theorem placedLow_readCellS : (s.placedLow n dl).readCellS = s.lastIdx.getD 0 := rfl
@[simp] theorem placedLow_lastIdx : (s.placedLow n dl).lastIdx = s.lastIdx := rfl
@[simp] theorem placedLow_input :
    (s.placedLow n dl).input = .edge ⟨.rise, s.lastIdx.getD 0 + dl⟩ :: s.input := rfl

@[simp] theorem placedHigh_fs : (s.placedHigh n dl dh).fs = 1000000 := rfl
@[simp] theorem placedHigh_phase : (s.placedHigh n dl dh).phase = .high := rfl
@[simp] theorem placedHigh_bitCount : (s.placedHigh n dl dh).bitCount = n := rfl
@[simp] theorem placedHigh_readCellS : (s.placedHigh n dl dh).readCellS = s.lastIdx.getD 0 := rfl
@[simp] theorem placedHigh_readLowE : (s.placedHigh n dl dh).readLowE = s.lastIdx.getD 0 + dl := rfl
@[simp] theorem placedHigh_lastIdx : (s.placedHigh n dl dh).lastIdx = some (s.lastIdx.getD 0 + dl) := rfl
@[simp] theorem placedHigh_input :
    (s.placedHigh n dl dh).input = .edge ⟨.fall, s.lastIdx.getD 0 + dl + dh⟩ :: s.input := rfl

@[simp] theorem placedSeq_phase : (s.placedSeq p f d).phase = p := rfl
@[simp] theorem placedSeq_lastIdx : (s.placedSeq p f d).lastIdx = s.lastIdx := rfl
@[simp] theorem placedSeq_input :
    (s.placedSeq p f d).input = .edge ⟨d, s.lastIdx.getD 0⟩ :: s.input := rfl

end Sys2Proof.Machine.State
end

