-- ==== Sys2Proof/Laws/Records.lean ====
section
/-! SUPPORT. What one more record does to the newest `Bit` records and to the invariants on `Byte`
records. -/

namespace Sys2Proof.Machine

@[simp] theorem newestBitRecord_nil (j : Nat) : newestBitRecord [] j = none := by
  simp [newestBitRecord]

theorem newestBitRecord_append_bit_zero (out : List Ann) (a : Ann) (h : a.kind = .bit) :
    newestBitRecord (out ++ [a]) 0 = some a := by
  simp [newestBitRecord, List.filter_append, h]

theorem newestBitRecord_append_bit_succ (out : List Ann) (a : Ann) (h : a.kind = .bit) (j : Nat) :
    newestBitRecord (out ++ [a]) (j + 1) = newestBitRecord out j := by
  simp [newestBitRecord, List.filter_append, h]

theorem newestBitRecord_append_other (out : List Ann) (a : Ann) (h : a.kind ≠ .bit) (j : Nat) :
    newestBitRecord (out ++ [a]) j = newestBitRecord out j := by
  simp [newestBitRecord, List.filter_append, h]

/-- One more record that is no `Byte` keeps the spans of the `Byte` records. -/
theorem ByteSpansRight.append_other (out : List Ann) (a : Ann) (h : a.kind ≠ .byte)
    (hs : ByteSpansRight out) : ByteSpansRight (out ++ [a]) := by
  intro pre b post he hb
  rcases List.eq_nil_or_concat post with rfl | ⟨post', x, rfl⟩
  · have he' : out ++ [a] = pre ++ [b] := he
    obtain ⟨-, hab⟩ := List.append_inj' he' rfl
    exact absurd (by simpa [(List.cons.inj hab).1] using hb) h
  · have he' : out ++ [a] = (pre ++ b :: post') ++ [x] := by simpa using he
    exact hs pre b post' (List.append_inj' he' rfl).1 hb

/-- One more `Byte` with the right span keeps the spans right. -/
theorem ByteSpansRight.append_byte (out : List Ann) (a : Ann)
    (hf : newestBitStart out 7 = some a.startSample)
    (hl : (newestBitRecord out 0).map (fun b => b.endSample) = some a.endSample)
    (hs : ByteSpansRight out) : ByteSpansRight (out ++ [a]) := by
  intro pre b post he hb
  rcases List.eq_nil_or_concat post with rfl | ⟨post', x, rfl⟩
  · have he' : out ++ [a] = pre ++ [b] := he
    obtain ⟨rfl, hab⟩ := List.append_inj' he' rfl
    obtain rfl := (List.cons.inj hab).1
    exact ⟨hf, hl⟩
  · have he' : out ++ [a] = (pre ++ b :: post') ++ [x] := by simpa using he
    exact hs pre b post' (List.append_inj' he' rfl).1 hb

end Sys2Proof.Machine
end

