-- ==== Sys2Proof/Tests/Slice0.lean ====
section
/-! SUPPORT. Small tests: ill-formed terms that the checks refuse, a word of every operation written
out from spec/30_encoding.md rule R70, one or two vectors of spec/95_test_vectors.md for every
operation, and a witness for the hypotheses of every statement. -/

namespace Sys2Proof.Tests

open Sys2Proof.Machine

/-! ## Well-formedness (rules R31, R62, R71, R76) -/

theorem test_wf_every_operation :
    (opcodeTable.map (fun r => (r.op true).wellFormed)).all id = true := by decide

theorem test_wf_record : (⟨.byte, 1550, 2350, 0xB2⟩ : Ann).wellFormed = true := by decide

theorem test_wf_refuses_span_backwards : (⟨.low, 5, 4, 0⟩ : Ann).wellFormed = false := by decide

theorem test_wf_refuses_bit_value_two : (⟨.bit, 0, 4, 2⟩ : Ann).wellFormed = false := by decide

theorem test_wf_refuses_payload_on_stop : (⟨.stop, 0, 4, 1⟩ : Ann).wellFormed = false := by decide

theorem test_wf_refuses_decreasing_index :
    edgesOrdered [⟨.fall, 100⟩, ⟨.rise, 99⟩] = false := by decide

theorem test_wf_equal_indices : edgesOrdered [⟨.fall, 100⟩, ⟨.rise, 100⟩] = true := by decide

/-! ## Decoding: words written out from rule R70, with the `x` positions once all 0 and once all 1 -/

theorem test_decode_seqSync :
    decode 0b000_00000000 = .seqSync ∧ decode 0b000_11111111 = .seqSync := by decide

theorem test_decode_seqSkipSync :
    decode 0b001_00000000 = .seqSkipSync ∧ decode 0b001_11111111 = .seqSkipSync := by decide

theorem test_decode_seqSkipLow :
    decode 0b010_00000000 = .seqSkipLow ∧ decode 0b010_11111111 = .seqSkipLow := by decide

theorem test_decode_seqSkipHigh :
    decode 0b101_00000000 = .seqSkipHigh ∧ decode 0b101_11111111 = .seqSkipHigh := by decide

theorem test_decode_seqDead :
    decode 0b110_00000000 = .seqDead ∧ decode 0b111_11111111 = .seqDead := by decide

theorem test_decode_lowShort :
    decode 0b011_1_00_00000 = .lowShort ∧ decode 0b011_1_11_11111 = .lowShort := by decide

theorem test_decode_lowReset :
    decode 0b011_01_0_00000 = .lowReset ∧ decode 0b011_01_1_11111 = .lowReset := by decide

theorem test_decode_lowAttn :
    decode 0b011_000_00000 = .lowAttn ∧ decode 0b011_000_11111 = .lowAttn := by decide

theorem test_decode_lowSrq :
    decode 0b011_001_00000 = .lowSrq ∧ decode 0b011_001_11111 = .lowSrq := by decide

theorem test_decode_highBit :
    decode 0b100_000_11_00_0 = .highBit false ∧ decode 0b100_111_11_00_1 = .highBit true := by
  decide

theorem test_decode_highBitstart :
    decode 0b100_000_11_10_0 = .highBitstart false ∧
      decode 0b100_111_11_11_1 = .highBitstart true := by decide

theorem test_decode_highBitbyte :
    decode 0b100_000_11_01_0 = .highBitbyte false ∧
      decode 0b100_111_11_01_1 = .highBitbyte true := by decide

theorem test_decode_highStopcell :
    decode 0b100_1_00_10_000 = .highStopcell ∧ decode 0b100_1_11_10_111 = .highStopcell := by
  decide

theorem test_decode_highStart :
    decode 0b100_0_00_10_000 = .highStart ∧ decode 0b100_0_11_10_111 = .highStart := by decide

theorem test_decode_highStopidle :
    decode 0b100_1_00_00_000 = .highStopidle ∧ decode 0b100_1_11_01_111 = .highStopidle := by
  decide

theorem test_decode_highIdle :
    decode 0b100_0_00_00_000 = .highIdle ∧ decode 0b100_0_11_01_111 = .highIdle := by decide

theorem test_decode_refuses_a_twelfth_bit :
    decodeTableWord 16 0x800 = none ∧ (decodeBits 0x800).toOption = none := by decide

theorem test_placed_words_are_fetched :
    fetch (State.reset.withFetchWord 11 0x341) = .run .lowReset ∧
    fetch (State.reset.withFetchWord 11 0x41B) = .run (.highBitbyte true) ∧
    fetch (State.reset.withFetchWord 11 0x600) = .run .seqDead := by decide

/-! ## One step: vectors of spec/95_test_vectors.md section 2 -/

/-- `phase/bit_count/byte/byte_s/cell_s/low_e` at the rate `fs`, with one event to come. -/
def before (fs : Nat) (p : Phase) (n : Int) (b : Byte) (bs c l : Option Nat) (e : Edge) : State where
  fs := fs
  phase := p
  fault := if p = .fault then .configError else .noFault
  byte := b
  bitCount := n
  byteS := bs
  cellS := c
  lowE := l
  lastIdx := none
  input := [.edge e]
  out := []
  freeCount := 0

/-- What a vector lists of a state: `phase/bit_count/byte/byte_s/cell_s/low_e` and the records of the
step. -/
structure Seen where
  phase : Phase
  count : Int
  byte : Byte
  byteS : Option Nat
  cellS : Option Nat
  lowE : Option Nat
  records : List Ann
  deriving DecidableEq, Repr

/-- What one step from a state shows. -/
def stepped (s : State) : Option Seen :=
  (nextState? (step s)).map fun t => ⟨t.phase, t.bitCount, t.byte, t.byteS, t.cellS, t.lowE, t.out⟩

/-- VS4. -/
theorem test_step_seqSync :
    stepped (before 1000000 .sync 0 0 none none none ⟨.fall, 100⟩) =
      some ⟨.low, 0, 0, none, some 100, none, []⟩ := by decide

/-- VS3. -/
theorem test_step_seqSkipSync :
    stepped (before 1000000 .sync 0 0 none none none ⟨.rise, 10⟩) =
      some ⟨.sync, 0, 0, none, none, none, []⟩ := by decide

/-- VS6. -/
theorem test_step_seqSkipLow :
    stepped (before 1000000 .low 2 3 (some 0) (some 3000) (some 2950) ⟨.fall, 3100⟩) =
      some ⟨.low, 2, 3, some 0, some 3000, some 2950, []⟩ := by decide

/-- VS7. -/
theorem test_step_seqSkipHigh :
    stepped (before 1000000 .high 3 5 (some 300) (some 1000) (some 1050) ⟨.rise, 1070⟩) =
      some ⟨.high, 3, 5, some 300, some 1000, some 1050, []⟩ := by decide

/-- VS9. -/
theorem test_step_seqDead :
    (stepped (before 0 .fault 0 0 none none none ⟨.rise, 9⟩)).map (fun x => (x.phase, x.records)) =
      some (.fault, []) := by decide

/-- VL6: a zero-length low. -/
theorem test_step_lowShort_zero :
    stepped (before 1000000 .low 0 0 none (some 1000) none ⟨.rise, 1000⟩) =
      some ⟨.high, 0, 0, some 1000, some 1000, some 1000, [⟨.low, 1000, 1000, 0⟩]⟩ := by decide

/-- VL4: no capture at -1. -/
theorem test_step_lowShort_no_capture :
    stepped (before 1000000 .low (-1) 0 (some 200) (some 1000) (some 950) ⟨.rise, 1050⟩) =
      some ⟨.high, -1, 0, some 200, some 1000, some 1050, [⟨.low, 1000, 1050, 0⟩]⟩ := by decide

/-- VL10: 1501 microseconds; the counter and `byte` are kept. -/
theorem test_step_lowReset :
    stepped (before 1000000 .low 8 0xB2 (some 200) (some 1000) (some 950) ⟨.rise, 2501⟩) =
      some ⟨.high, 8, 0xB2, some 200, some 1000, some 2501, [⟨.reset, 1000, 2501, 0⟩]⟩ := by
  decide

/-- VL7: exactly 100 microseconds is not short. -/
theorem test_step_lowAttn :
    stepped (before 1000000 .low 3 5 (some 500) (some 1000) (some 900) ⟨.rise, 1100⟩) =
      some ⟨.high, -1, 0, some 500, some 1000, some 1100, [⟨.attention, 1000, 1100, 0⟩]⟩ := by
  decide

/-- VL16: 44.1 kHz, 66 samples. -/
theorem test_step_lowSrq :
    stepped (before 44100 .low 8 0x7F (some 2) (some 10) (some 8) ⟨.rise, 76⟩) =
      some ⟨.high, -1, 0, some 2, some 10, some 76, [⟨.serviceRequest, 10, 76, 0⟩]⟩ := by decide

/-- VH1: a tie gives 1. -/
theorem test_step_highBit_tie :
    stepped (before 1000000 .high 2 1 (some 100) (some 1000) (some 1050) ⟨.fall, 1100⟩) =
      some ⟨.low, 3, 3, some 100, some 1100, some 1050,
        [⟨.high, 1050, 1100, 0⟩, ⟨.bit, 1000, 1100, 1⟩]⟩ := by decide

/-- VH2: 51 against 50 gives 0. -/
theorem test_step_highBit_zero :
    stepped (before 1000000 .high 2 1 (some 100) (some 1000) (some 1051) ⟨.fall, 1101⟩) =
      some ⟨.low, 3, 2, some 100, some 1101, some 1051,
        [⟨.high, 1051, 1101, 0⟩, ⟨.bit, 1000, 1101, 0⟩]⟩ := by decide

/-- VH9: a start bit of value 1 is shifted in. -/
theorem test_step_highBitstart :
    stepped (before 1000000 .high (-1) 0 (some 300) (some 1000) (some 1035) ⟨.fall, 1100⟩) =
      some ⟨.low, 0, 1, some 300, some 1100, some 1035,
        [⟨.high, 1035, 1100, 0⟩, ⟨.bit, 1000, 1100, 1⟩, ⟨.start, 1000, 1100, 0⟩]⟩ := by decide

/-- VH7: the mask drops the old bit 7. -/
theorem test_step_highBitbyte :
    stepped (before 1000000 .high 7 0xFF (some 300) (some 1000) (some 1065) ⟨.fall, 1100⟩) =
      some ⟨.low, 8, 0xFE, some 300, some 1100, some 1065,
        [⟨.high, 1065, 1100, 0⟩, ⟨.bit, 1000, 1100, 0⟩, ⟨.byte, 300, 1100, 0xFE⟩]⟩ := by decide

/-- VH14: 99 and 99. -/
theorem test_step_highStopcell :
    stepped (before 1000000 .high 8 0xB2 (some 1000) (some 1000) (some 1099) ⟨.fall, 1198⟩) =
      some ⟨.low, 8, 0xB2, some 1000, some 1198, some 1099,
        [⟨.high, 1099, 1198, 0⟩, ⟨.stop, 1000, 1198, 0⟩]⟩ := by decide

/-- VH17: after a reset low `byte` stays. -/
theorem test_step_highStart :
    stepped (before 1000000 .high 3 5 (some 300) (some 1000) (some 3000) ⟨.fall, 3099⟩) =
      some ⟨.low, 0, 5, some 300, some 3099, some 3000,
        [⟨.high, 3000, 3099, 0⟩, ⟨.start, 3000, 3099, 0⟩]⟩ := by decide

/-- VH19: a high of exactly 100 microseconds is not short. -/
theorem test_step_highStopidle :
    stepped (before 1000000 .high 3 5 (some 300) (some 1000) (some 1099) ⟨.fall, 1199⟩) =
      some ⟨.low, -1, 0, some 300, some 1199, some 1099, [⟨.stop, 1000, 1099, 0⟩]⟩ := by decide

/-- VH21: reset, then idle. -/
theorem test_step_highIdle :
    stepped (before 1000000 .high 3 5 (some 300) (some 1000) (some 3000) ⟨.fall, 3100⟩) =
      some ⟨.low, -1, 0, some 300, some 3100, some 3000, []⟩ := by decide

/-- The select words of VL10 and VH7, on the fields they evaluate. -/
theorem test_select_words :
    assemble (before 1000000 .low 8 0xB2 (some 200) (some 1000) (some 950) ⟨.rise, 2501⟩)
        ⟨.rise, 2501⟩ &&& evaluatedMask 1 true = 0b011_011_00000 ∧
    assemble (before 1000000 .high 7 0xFF (some 300) (some 1000) (some 1065) ⟨.fall, 1100⟩)
        ⟨.fall, 1100⟩ &&& evaluatedMask 2 false = 0b100_100_11_01_1 := by decide

/-- VT6, VT7, VT16 and VT17. -/
theorem test_time_base :
    usLt 1500000 149 100 = true ∧ usLt 1500000 150 100 = false ∧
      usGt 12000000 18000 1500 = false ∧ usGt 12000000 18001 1500 = true := by decide

/-- The limits at 44.1 kHz (section 2.1). -/
theorem test_limits_44100 : (limitA 44100, limitB 44100, limitT 44100) = (5, 66, 5) := by decide

/-- VF4. -/
theorem test_fold : (foldCount 17, foldCount 24, foldCount 25) = (9, 16, 9) := by decide

/-- The level sequence of section 2.2. -/
theorem test_front_end :
    edgesOfLevels [true, true, false, false, false, true, true, false] =
      [⟨.fall, 2⟩, ⟨.rise, 5⟩, ⟨.fall, 7⟩] := by decide

/-- The default label of a byte is two upper-case hexadecimal digits (rule R77). -/
theorem test_label_byte : (defaultLabels .byte 0xB2).most = "B2" := by decide

/-- `bits(v, n)` is most significant first (rule R79). -/
theorem test_macro_bits :
    expand 0 [.start 0, .bits 0b10 2 (35, 65) (65, 35)] =
      [⟨.fall, 0⟩, ⟨.rise, 35⟩, ⟨.fall, 100⟩, ⟨.rise, 165⟩, ⟨.fall, 200⟩] := by decide

/-! ## Witnesses: each shows a state and operands that meet the hypotheses of the statement it names -/

/-- A state of a run, in phase SYNC, with an event to come. -/
def inSync (d : Dir) : State := before 1000000 .sync 0 0 none none none ⟨d, 100⟩

/-- A state of a run in phase LOW: the pass's first cell began at 100, an event comes at `idx`. -/
def inLow (n : Int) (d : Dir) (idx : Nat) : State :=
  { before 1000000 .low n 0 (some 0) (some 100) none ⟨d, idx⟩ with lastIdx := some 100 }

/-- The rising edge comes 35 samples after the first falling edge of a pass. -/
def firstLow : State := { inLow 0 .rise 135 with byteS := none }

/-- A state in phase HIGH: the cell began at 100, its low phase ended at `l`, and an event comes at
`idx`. -/
def inHigh (n : Int) (l : Nat) (d : Dir) (idx : Nat) : State :=
  { before 1000000 .high n 0 (some 0) (some 100) (some l) ⟨d, idx⟩ with lastIdx := some l }

/-- The falling edge comes 65 samples after the first rising edge of the first cell. -/
def firstHigh : State :=
  { inHigh 0 135 .fall 200 with byteS := some 100, out := [⟨.low, 100, 135, 0⟩] }

/-- A faulted pass with an event to come. -/
def inFault : State := before 0 .fault 0 0 none none none ⟨.fall, 5⟩

theorem firstLow_inv : firstLow.Inv := by constructor <;> decide

theorem firstLow_framing : firstLow.FramingInv := by constructor <;> decide

theorem firstHigh_inv : firstHigh.Inv := by constructor <;> decide

theorem firstHigh_framing : firstHigh.FramingInv := by constructor <;> decide

theorem firstLow_payload : firstLow.PayloadInv := by
  constructor
  · decide
  · intro pre b post h; simp [firstLow, inLow, before] at h

theorem firstHigh_payload : firstHigh.PayloadInv := by
  constructor
  · decide
  · intro pre b post h hk
    have hb : b ∈ firstHigh.out := by simp [h]
    simp [firstHigh] at hb
    simp [hb] at hk

theorem firstHigh_spans : firstHigh.ByteSpanInv := by
  constructor
  · intro _ m h₁ h₂ _ h
    have h0 : (0 : Int) = m := h
    omega
  · intro pre b post h hk
    have hb : b ∈ firstHigh.out := by simp [h]
    simp [firstHigh] at hb
    simp [hb] at hk

theorem firstHigh_order : firstHigh.OrderInv := by
  constructor
  · intro r; simp [firstHigh]
    cases r <;> decide
  · decide
  · decide
  · decide
  · decide
  · decide
  · intro _ b h; cases h; decide
  · decide

theorem test_witness_kind_codes :
    9 ≤ (9 : BitVec 4).toNat ∧ 9 ≤ (15 : BitVec 4).toNat := by decide

theorem test_witness_step_runs :
    firstLow.input = .edge ⟨.rise, 135⟩ :: [] ∧ firstLow.accepts ⟨.rise, 135⟩ = true ∧
      firstHigh.input = .edge ⟨.fall, 200⟩ :: [] ∧ firstHigh.accepts ⟨.fall, 200⟩ = true ∧
      State.reset.input = [] := by decide

theorem test_witness_placed_word :
    decodeTableWord 11 0x000 = some .seqSync ∧ decodeTableWord 11 0x7FF = some .seqDead := by decide

/-- The two clauses of UnreachableWordsAreNeverAssembled (with test_witness_step_runs). -/
theorem test_witness_unreachable_words :
    (firstLow.Inv ∧ firstLow.FramingInv ∧ firstLow.phase = .low) ∧
      (firstHigh.Inv ∧ firstHigh.FramingInv ∧ firstHigh.phase = .high) :=
  ⟨⟨firstLow_inv, firstLow_framing, rfl⟩, ⟨firstHigh_inv, firstHigh_framing, rfl⟩⟩

theorem firstLow_faces : firstLow.Faces ⟨.rise, 135⟩ [] := by constructor <;> decide

/-- The hypotheses of EveryOrderedEventIsDecoded. -/
theorem test_witness_ordered_event : firstLow.Inv ∧ firstLow.Faces ⟨.rise, 135⟩ [] :=
  ⟨firstLow_inv, firstLow_faces⟩

/-- VS10, one sample too early. -/
theorem test_witness_decreasing_index :
    (inLow 0 .rise 99).input = .edge ⟨.rise, 99⟩ :: [] ∧ (inLow 0 .rise 99).lastIdx = some 100 ∧
      (⟨.rise, 99⟩ : Edge).idx < 100 := by decide

theorem test_witness_pass_start :
    (State.loaded 1 []).input = .start 1 :: [] ∧ (1 : Nat) ≠ 0 ∧
      (State.loaded 0 []).input = .start 0 :: [] := by decide

theorem test_witness_nothing_survives :
    { inLow 3 .rise 135 with input := [.start 1] } ≠ State.loaded 1 [] ∧
      (inLow 3 .rise 135).freeCount = (State.loaded 1 []).freeCount := by decide

theorem test_witness_config_error :
    ∃ t, step (State.loaded 0 []) = .next t ∧ (State.loaded 0 []).fault = .noFault ∧
      t.fault = .configError := ⟨_, rfl, rfl, rfl⟩

theorem test_witness_in_fault :
    inFault.phase = .fault ∧ inFault.fault = .configError ∧
      inFault.input = .edge ⟨.fall, 5⟩ :: [] ∧ (nextState? (step inFault)).isSome = true := by decide

theorem test_witness_faulted_pass : edgesOrdered [⟨.fall, 0⟩, ⟨.rise, 35⟩] = true := by decide

/-- A next state from every phase and direction: the clauses of PhaseTransitions, RecordsPerEvent,
EventsLeaveRateAndFault and BitCountMoves. -/
theorem test_witness_every_phase_steps :
    ([inSync .fall, inSync .rise, firstLow, inLow 0 .fall 135, firstHigh, inHigh 0 135 .rise 200,
      inFault].all fun s => (nextState? (step s)).isSome) = true := by decide

/-- The clauses of SeqSyncEffect, SeqSkipEffect and SeqDeadEffect. -/
theorem test_witness_sequencer :
    (inSync .fall).Faces ⟨.fall, 100⟩ [] ∧ (inSync .rise).Faces ⟨.rise, 100⟩ [] ∧
      (inLow 0 .fall 135).Faces ⟨.fall, 135⟩ [] ∧ (inHigh 0 135 .rise 200).Faces ⟨.rise, 200⟩ [] ∧
      inFault.Faces ⟨.fall, 5⟩ [] := by
  refine ⟨?_, ?_, ?_, ?_, ?_⟩ <;> constructor <;> decide

theorem inLow_ends (n : Int) (idx : Nat) (h : 100 ≤ idx) :
    (inLow n .rise idx).LowEnds ⟨.rise, idx⟩ [] 100 := by
  refine ⟨⟨rfl, ?_⟩, rfl, rfl, rfl, h⟩
  simpa [State.inOrder, inLow] using h

/-- LowShortEffect at its bound: 99 samples at 1 MHz. -/
theorem test_witness_low_short :
    (inLow 0 .rise 199).LowEnds ⟨.rise, 199⟩ [] 100 ∧
      (199 - 100) * 1000000 < 100 * (inLow 0 .rise 199).fs :=
  ⟨inLow_ends 0 199 (by decide), by decide⟩

/-- LowResetEffect at its bound: 1501 samples. -/
theorem test_witness_low_reset :
    (inLow 8 .rise 1601).LowEnds ⟨.rise, 1601⟩ [] 100 ∧
      1500 * (inLow 8 .rise 1601).fs < (1601 - 100) * 1000000 :=
  ⟨inLow_ends 8 1601 (by decide), by decide⟩

/-- LowAttnEffect at its lower bound: 100 samples. -/
theorem test_witness_low_attn :
    (inLow 7 .rise 200).LowEnds ⟨.rise, 200⟩ [] 100 ∧
      100 * (inLow 7 .rise 200).fs ≤ (200 - 100) * 1000000 ∧
      (200 - 100) * 1000000 ≤ 1500 * (inLow 7 .rise 200).fs ∧ (inLow 7 .rise 200).bitCount ≠ 8 :=
  ⟨inLow_ends 7 200 (by decide), by decide, by decide, by decide⟩

/-- LowSrqEffect at its upper bound: 1500 samples. -/
theorem test_witness_low_srq :
    (inLow 8 .rise 1600).LowEnds ⟨.rise, 1600⟩ [] 100 ∧
      100 * (inLow 8 .rise 1600).fs ≤ (1600 - 100) * 1000000 ∧
      (1600 - 100) * 1000000 ≤ 1500 * (inLow 8 .rise 1600).fs ∧
      (inLow 8 .rise 1600).bitCount = 8 :=
  ⟨inLow_ends 8 1600 (by decide), by decide, by decide, by decide⟩

theorem inHigh_ends (n : Int) (l idx : Nat) (h₁ : 100 ≤ l) (h₂ : l ≤ idx) :
    (inHigh n l .fall idx).CellEnds ⟨.fall, idx⟩ [] 100 l := by
  refine ⟨⟨rfl, ?_⟩, rfl, rfl, rfl, rfl, h₁, h₂⟩
  simpa [State.inOrder, inHigh] using h₂

/-- HighBitEffect at its bound: a tie in a cell of 130 samples. -/
theorem test_witness_high_bit :
    (inHigh 0 165 .fall 230).CellEnds ⟨.fall, 230⟩ [] 100 165 ∧
      (230 - 165) * 1000000 < 100 * (inHigh 0 165 .fall 230).fs ∧
      (230 - 100) * 1000000 ≤ 130 * (inHigh 0 165 .fall 230).fs ∧
      (inHigh 0 165 .fall 230).bitCount ≠ -1 ∧ ((inHigh 0 165 .fall 230).bitCount + 1) % 8 ≠ 0 ∧
      (false = true ↔ 165 - 100 > 230 - 165) :=
  ⟨inHigh_ends 0 165 230 (by decide) (by decide), by decide, by decide, by decide, by decide,
    by decide⟩

/-- HighBitstartEffect with a low of 100 samples. -/
theorem test_witness_high_bitstart :
    (inHigh (-1) 200 .fall 230).CellEnds ⟨.fall, 230⟩ [] 100 200 ∧
      (230 - 200) * 1000000 < 100 * (inHigh (-1) 200 .fall 230).fs ∧
      (230 - 100) * 1000000 ≤ 130 * (inHigh (-1) 200 .fall 230).fs ∧
      (inHigh (-1) 200 .fall 230).bitCount = -1 ∧ (true = true ↔ 200 - 100 > 230 - 200) :=
  ⟨inHigh_ends (-1) 200 230 (by decide) (by decide), by decide, by decide, by decide, by decide⟩

/-- HighBitbyteEffect, and its value clause with `byte_s`, `cell_s` and `low_e` present. -/
theorem test_witness_high_bitbyte :
    (inHigh 7 165 .fall 200).CellEnds ⟨.fall, 200⟩ [] 100 165 ∧
      (200 - 165) * 1000000 < 100 * (inHigh 7 165 .fall 200).fs ∧
      (200 - 100) * 1000000 ≤ 130 * (inHigh 7 165 .fall 200).fs ∧
      (inHigh 7 165 .fall 200).bitCount ≠ -1 ∧ ((inHigh 7 165 .fall 200).bitCount + 1) % 8 = 0 ∧
      (true = true ↔ 165 - 100 > 200 - 165) ∧ (inHigh 7 165 .fall 200).byteS = some 0 :=
  ⟨inHigh_ends 7 165 200 (by decide) (by decide), by decide, by decide, by decide, by decide,
    by decide, by decide⟩

/-- HighStopcellEffect at its bounds: 32 samples after 99. -/
theorem test_witness_high_stopcell :
    (inHigh 3 199 .fall 231).CellEnds ⟨.fall, 231⟩ [] 100 199 ∧
      (231 - 199) * 1000000 < 100 * (inHigh 3 199 .fall 231).fs ∧
      130 * (inHigh 3 199 .fall 231).fs < (231 - 100) * 1000000 ∧
      (199 - 100) * 1000000 < 100 * (inHigh 3 199 .fall 231).fs :=
  ⟨inHigh_ends 3 199 231 (by decide) (by decide), by decide, by decide, by decide⟩

/-- HighStartEffect at its bounds: 31 samples after 100. -/
theorem test_witness_high_start :
    (inHigh (-1) 200 .fall 231).CellEnds ⟨.fall, 231⟩ [] 100 200 ∧
      (231 - 200) * 1000000 < 100 * (inHigh (-1) 200 .fall 231).fs ∧
      130 * (inHigh (-1) 200 .fall 231).fs < (231 - 100) * 1000000 ∧
      100 * (inHigh (-1) 200 .fall 231).fs ≤ (200 - 100) * 1000000 :=
  ⟨inHigh_ends (-1) 200 231 (by decide) (by decide), by decide, by decide, by decide⟩

/-- HighStopidleEffect at its bounds: 100 samples after 99. -/
theorem test_witness_high_stopidle :
    (inHigh 3 199 .fall 299).CellEnds ⟨.fall, 299⟩ [] 100 199 ∧
      100 * (inHigh 3 199 .fall 299).fs ≤ (299 - 199) * 1000000 ∧
      (199 - 100) * 1000000 < 100 * (inHigh 3 199 .fall 299).fs :=
  ⟨inHigh_ends 3 199 299 (by decide) (by decide), by decide, by decide⟩

/-- HighIdleEffect at its bounds: 100 samples after 100. -/
theorem test_witness_high_idle :
    (inHigh (-1) 200 .fall 300).CellEnds ⟨.fall, 300⟩ [] 100 200 ∧
      100 * (inHigh (-1) 200 .fall 300).fs ≤ (300 - 200) * 1000000 ∧
      100 * (inHigh (-1) 200 .fall 300).fs ≤ (200 - 100) * 1000000 :=
  ⟨inHigh_ends (-1) 200 300 (by decide) (by decide), by decide, by decide⟩

/-- The two clauses of EveryOperationCompletesOnAnEvent. -/
theorem test_witness_completion :
    inFault.input = .edge ⟨.fall, 5⟩ :: [] ∧ State.reset.input = [] := by decide

/-- The cell to come, after the state of FramingMachinePerCell. -/
def cellToCome : State := { firstLow with input := [.edge ⟨.rise, 135⟩, .edge ⟨.fall, 200⟩] }

theorem test_witness_framing_machine :
    cellToCome.Inv ∧ cellToCome.phase = .low ∧ cellToCome.cellS = some 100 ∧
      cellToCome.inOrder 135 = true ∧ 135 ≤ 200 ∧
      cellToCome.input = .edge ⟨.rise, 135⟩ :: .edge ⟨.fall, 200⟩ :: [] := by
  refine ⟨?_, by decide, by decide, by decide, by decide, by decide⟩
  constructor <;> decide

/-- Rows Mb and Ms of the table of rule R151 (a low of 100 microseconds, `bit_count = 8`). -/
theorem test_cell_records :
    cellRecords (inLow 8 .rise 200) 100 200 230 .mid .bit =
        [⟨.serviceRequest, 100, 200, 0⟩, ⟨.high, 200, 230, 0⟩, ⟨.bit, 100, 230, 0⟩,
          ⟨.start, 100, 230, 0⟩] ∧
      cellRecords (inLow 7 .rise 200) 100 200 231 .mid .stretched =
        [⟨.attention, 100, 200, 0⟩, ⟨.high, 200, 231, 0⟩, ⟨.start, 200, 231, 0⟩] := by decide

/-- All the invariants together in a state of a run that steps: the StepKeeps statements. -/
theorem test_witness_invariants :
    firstHigh.Inv ∧ firstHigh.FramingInv ∧ firstHigh.PayloadInv ∧
      firstHigh.ByteSpanInv ∧ firstHigh.OrderInv ∧
      (nextState? (step firstHigh)).isSome = true :=
  ⟨firstHigh_inv, firstHigh_framing, firstHigh_payload, firstHigh_spans, firstHigh_order, by decide⟩

/-- A state of a run in which a byte completes: the first clause of NoRegisterIsReadBeforeItHasAValue. -/
theorem test_witness_byte_completes :
    (inHigh 7 135 .fall 200).Inv ∧ (inHigh 7 135 .fall 200).FramingInv ∧
      fetch (inHigh 7 135 .fall 200) = .run (.highBitbyte false) := by
  refine ⟨?_, ?_, by decide⟩ <;> constructor <;> decide

/-- Seven bit cells of a byte are done, and the eighth ends at the next event. -/
def byteAlmostDone : State :=
  { before 1000000 .high 7 0 (some 0) (some 700) (some 765) ⟨.fall, 800⟩ with
    lastIdx := some 765
    out := (List.range 7).map fun k => ⟨.bit, 100 * k, 100 * k + 100, 0⟩ }

/-- StepKeepsByteSpansRight inside a byte: its step emits the `Byte` record over `(0, 800)`. -/
theorem test_witness_byte_span :
    byteAlmostDone.Inv ∧ byteAlmostDone.FramingInv ∧ byteAlmostDone.ByteSpanInv ∧
      (stepped byteAlmostDone).map (fun x => x.records.getLast?) =
        some (some ⟨.byte, 0, 800, 0⟩) := by
  refine ⟨?_, ?_, ?_, by decide⟩
  · constructor <;> decide
  · constructor <;> decide
  · constructor
    · intro _ m h₁ h₂ _ h
      have h7 : (7 : Int) = m := h
      obtain rfl : m = 7 := by omega
      decide
    · intro pre b post h hk
      have hb : b ∈ byteAlmostDone.out := by simp [h]
      have hall : ∀ a ∈ byteAlmostDone.out, a.kind ≠ .byte := by decide
      exact absurd hk (hall b hb)

theorem test_witness_registers_read :
    fetch firstLow = .run .lowShort ∧ fetch firstHigh = .run (.highBit false) := by decide

theorem test_witness_later_events :
    (observation (pass 1000000 [⟨.fall, 100⟩])).isSome = true ∧
      (observation (pass 1000000 ([⟨.fall, 100⟩] ++ [⟨.rise, 135⟩]))).isSome = true := by decide

/-- Both outcomes of StepCommutesWithShift, StepCommutesWithScaling and FoldedBlockBehavesTheSame: a
next state (test_witness_invariants) and a refusal. -/
theorem test_witness_refused :
    ({ firstLow with input := [.edge ⟨.rise, 99⟩] } : State).Inv ∧
      ({ firstLow with input := [.edge ⟨.rise, 99⟩] } : State).FramingInv ∧
      step { firstLow with input := [.edge ⟨.rise, 99⟩] } = .refused .nonMonotonicIndex := by
  refine ⟨?_, ?_, rfl⟩ <;> constructor <;> decide

theorem test_witness_numbers :
    (1 : Nat) ≤ 1 ∧ (-1 : Int) ≤ -1 ∧ (0 : Nat) < 1 ∧ (100 : Nat) ≤ 130 ∧ (1500 : Nat) ≤ 1500 := by
  decide

end Sys2Proof.Tests
end

section
/-! The sequencer operations (spec/40_timebase_and_sequencer.md): a step on an accepted event, and
when `SEQ.SYNC` runs (R100). -/

namespace Sys2Proof.Machine

variable {s : State} {e : Edge} {rest : List Input}

/-- On an accepted event a step runs the operation its select word decodes to (R99). -/
theorem step_accepted (h : s.input = .edge e :: rest) (ha : s.accepts e = true) :
    step s = exec (decode (assemble s e)) s := by
  simp only [step, fetch_accepted h ha]

/-- An event that ends no low phase and no cell takes no difference of indices, so its order alone
accepts it (R31). -/
theorem State.Faces.accepts_other (h : s.Faces e rest) (hl : ¬ (s.phase = .low ∧ e.dir = .rise))
    (hh : ¬ (s.phase = .high ∧ e.dir = .fall)) : s.accepts e = true := by
  have hm : s.measurable e = true := by
    unfold State.measurable
    split
    · next hp hd => exact absurd ⟨hp, hd⟩ hl
    · next hp hd => exact absurd ⟨hp, hd⟩ hh
    all_goals rfl
  simp [State.accepts, h.order, hm]

/-- A step on an event that ends no low phase and no cell: phase and direction alone select. -/
theorem State.Faces.step_other (h : s.Faces e rest) (hl : ¬ (s.phase = .low ∧ e.dir = .rise))
    (hh : ¬ (s.phase = .high ∧ e.dir = .fall)) :
    step s = exec (decode (Osw.pack s.phase.code e.dir.bit false false false false false false
      false false)) s := by
  rw [step_accepted h.input (h.accepts_other hl hh), assemble_other hl hh]

/-- What `SEQ.SYNC` does to the event at the head of the input (R100). -/
theorem exec_seqSync (h : s.input = .edge e :: rest) :
    exec .seqSync s = .next ((s.consume e rest).beginCell e.idx) :=
  onEdge_edge (f := fun e t => t.beginCell e.idx) h

/-- A falling edge in phase SYNC runs `SEQ.SYNC` (R70, R100). -/
theorem State.Faces.step_sync_fall (h : s.Faces e rest) (hp : s.phase = .sync)
    (hd : e.dir = .fall) : step s = exec .seqSync s := by
  rw [h.step_other (by simp [hp]) (by simp [hp]), hp, hd, decode_pack_sync]
  simp [Dir.bit]

/-- Settles O21: the effect from `exec_seqSync`, the selection from the select word of phase SYNC. -/
theorem seqSyncEffect : Obligations.SeqSyncEffect := by
  unfold Obligations.SeqSyncEffect
  constructor
  · intro s e rest h
    exact exec_seqSync h
  · intro s e rest h hp hd
    exact h.step_sync_fall hp hd

end Sys2Proof.Machine
end

section
/-! The low-phase operations (spec/41_low_phase.md): what ends a low phase, and the effect and the
selection of `LOW.SHORT` (R110) and `LOW.RESET` (R111). -/

namespace Sys2Proof.Machine

variable {s : State} {e : Edge} {rest : List Input} {c : Nat}

/-- The record of a low phase starts at `cell_s` where that has a value. -/
theorem State.emitLowPhase_of_some (k : Kind) (hc : s.cellS = some c) :
    s.emitLowPhase k e = s.emit k c e.idx 0 := by
  rw [State.emitLowPhase, s.readCellS_of_some c hc]

/-- The capture of `byte_s` where `cell_s` has a value, its condition as arithmetic (R110). -/
theorem State.captureByteS_of_some (hc : s.cellS = some c) :
    s.captureByteS = { s with byteS := if s.bitCount % 8 = 0 then some c else s.byteS } := by
  simp only [State.captureByteS, onByteBoundary_iff, s.readCellS_of_some c hc]

/-- What `LOW.SHORT` does to the event at the head of the input (R110). -/
theorem exec_lowShort (h : s.input = .edge e :: rest) :
    exec .lowShort s =
      .next (((s.consume e rest).emitLowPhase .low e).captureByteS.endLow e.idx) :=
  onEdge_edge (f := fun e t => ((t.emitLowPhase .low e).captureByteS).endLow e.idx) h

/-- What `LOW.RESET` does to the event at the head of the input (R111). -/
theorem exec_lowReset (h : s.input = .edge e :: rest) :
    exec .lowReset s = .next (((s.consume e rest).emitLowPhase .reset e).endLow e.idx) :=
  onEdge_edge (f := fun e t => (t.emitLowPhase .reset e).endLow e.idx) h

/-- The low phase that ends is the one from `cell_s` to the event (R64). -/
theorem State.LowEnds.lowSoFar_eq (h : s.LowEnds e rest c) : s.lowSoFar e.idx = e.idx - c := by
  rw [State.lowSoFar, s.readCellS_of_some c h.cellS]

/-- The step that ends a low phase: `A`, then `B`, then `Q` select among the four low-phase
operations (R69, R99). -/
theorem State.LowEnds.step_eq (h : s.LowEnds e rest c) :
    step s = exec (if phaseShort s.fs (e.idx - c) then .lowShort
      else if phaseReset s.fs (e.idx - c) then .lowReset
      else if srqPosition s.bitCount then .lowSrq else .lowAttn) s := by
  rw [step_accepted h.faces.input h.accepts, assemble_low h.phase h.dir, h.lowSoFar_eq,
    decode_pack_low, if_pos rfl]

/-- A low phase under 100 microseconds runs `LOW.SHORT` (R110). -/
theorem State.LowEnds.step_short (h : s.LowEnds e rest c)
    (hs : (e.idx - c) * 1000000 < 100 * s.fs) : step s = exec .lowShort s := by
  rw [h.step_eq, if_pos (phaseShort_iff.mpr hs)]

/-- A low phase over 1500 microseconds is not short, so it runs `LOW.RESET` (R111). -/
theorem State.LowEnds.step_reset (h : s.LowEnds e rest c)
    (hr : 1500 * s.fs < (e.idx - c) * 1000000) : step s = exec .lowReset s := by
  have hlong : phaseShort s.fs (e.idx - c) = false := phaseShort_false_iff.mpr (by omega)
  rw [h.step_eq, hlong, if_neg Bool.false_ne_true, if_pos (phaseReset_iff.mpr hr)]

/-- Settles O24: the effect from `exec_lowShort` with `cell_s` read, the selection from `A`. -/
theorem lowShortEffect : Obligations.LowShortEffect := by
  unfold Obligations.LowShortEffect
  constructor
  · intro s e rest c h hc
    have hcell : (s.consume e rest).cellS = some c := hc
    rw [exec_lowShort h, State.emitLowPhase_of_some .low hcell,
      State.captureByteS_of_some (c := c) (by simpa using hc)]
    rfl
  · intro s e rest c h hs
    exact h.step_short hs

/-- Settles O25: the effect from `exec_lowReset` with `cell_s` read, the selection from `B`. -/
theorem lowResetEffect : Obligations.LowResetEffect := by
  unfold Obligations.LowResetEffect
  constructor
  · intro s e rest c h hc
    have hcell : (s.consume e rest).cellS = some c := hc
    rw [exec_lowReset h, State.emitLowPhase_of_some .reset hcell]
    rfl
  · intro s e rest c h hr
    exact h.step_reset hr

end Sys2Proof.Machine
end

section
/-! The end of a cell (spec/42_high_phase.md): what the shared high-phase operations do where the
registers they read have values, and which operation the falling edge runs (R69, R99). -/

namespace Sys2Proof.Machine

variable {s : State} {e : Edge} {rest : List Input} {c l : Nat} {g : Bool}

/-- Two records in a row are one append of both. -/
theorem State.emit_emit (k k' : Kind) (a a' b b' : Nat) (v v' : Byte) :
    (s.emit k a b v).emit k' a' b' v' =
      { s with out := s.out ++ [⟨k, a, b, v⟩, ⟨k', a', b', v'⟩] } := by
  simp [State.emit]

/-- The `High` record starts at `low_e` where that has a value. -/
theorem State.emitHigh_of_some (hl : s.lowE = some l) :
    s.emitHigh e = s.emit .high l e.idx 0 := by
  rw [State.emitHigh, s.readLowE_of_some l hl]

/-- A record over the whole cell starts at `cell_s` where that has a value. -/
theorem State.emitCell_of_some (k : Kind) (v : Byte) (hc : s.cellS = some c) :
    s.emitCell k e v = s.emit k c e.idx v := by
  rw [State.emitCell, s.readCellS_of_some c hc]

/-- `High`, then a record over the whole cell, where both registers have values. -/
theorem State.emitHigh_emitCell_of_some (k : Kind) (v : Byte) (hc : s.cellS = some c)
    (hl : s.lowE = some l) :
    (s.emitHigh e).emitCell k e v =
      { s with out := s.out ++ [⟨.high, l, e.idx, 0⟩, ⟨k, c, e.idx, v⟩] } := by
  rw [State.emitHigh_of_some hl, State.emitCell_of_some (s := s.emit .high l e.idx 0) k v hc,
    State.emit_emit]

/-- What the three bit-cell operations share, where both registers have values (R120). -/
theorem State.bitCell_of_some (hc : s.cellS = some c) (hl : s.lowE = some l) :
    s.bitCell g e = { s with
      out := s.out ++ [⟨.high, l, e.idx, 0⟩, ⟨.bit, c, e.idx, bitOf g⟩]
      byte := ((s.byte <<< 1) &&& 0xFF) ||| bitOf g
      bitCount := s.bitCount + 1 } := by
  rw [State.bitCell, State.emitHigh_emitCell_of_some .bit (bitOf g) hc hl]
  rfl

/-- A bit cell leaves `byte_s` alone. -/
@[simp] theorem State.bitCell_readByteS : (s.bitCell g e).readByteS = s.readByteS := rfl

/-- The low phase of the cell that ends (R64). -/
theorem State.CellEnds.dl_eq (h : s.CellEnds e rest c l) : s.dl = l - c := by
  rw [State.dl, s.readLowE_of_some l h.lowE, s.readCellS_of_some c h.cellS]

/-- The high phase of the cell that ends (R64). -/
theorem State.CellEnds.dh_eq (h : s.CellEnds e rest c l) : s.dh e.idx = e.idx - l := by
  rw [State.dh, s.readLowE_of_some l h.lowE]

/-- The whole cell that ends (R64). -/
theorem State.CellEnds.dt_eq (h : s.CellEnds e rest c l) : s.dt e.idx = e.idx - c := by
  rw [State.dt, s.readCellS_of_some c h.cellS]

/-- The step that ends a cell: `H`, then under it `T` with `M` before `Z`, and `A`, select among the
seven high-phase operations (R69, R99). -/
theorem State.CellEnds.step_eq (h : s.CellEnds e rest c l) :
    step s = exec (if phaseShort s.fs (e.idx - l) then
        (if cellIsBit s.fs (e.idx - c) then
          (if counterIdle s.bitCount then .highBitstart (lowLonger (l - c) (e.idx - l))
           else if byteCompletes s.bitCount then .highBitbyte (lowLonger (l - c) (e.idx - l))
           else .highBit (lowLonger (l - c) (e.idx - l)))
         else if phaseShort s.fs (l - c) then .highStopcell else .highStart)
      else if phaseShort s.fs (l - c) then .highStopidle else .highIdle) s := by
  rw [step_accepted h.faces.input h.accepts, assemble_high h.phase h.dir, h.dl_eq, h.dh_eq,
    h.dt_eq, decode_pack_high, if_neg Bool.false_ne_true]

/-- A short high in a cell of at most 130 microseconds is a bit cell: `M`, then `Z`, select, and `G`
is the operand (R69, R120 to R122). -/
theorem State.CellEnds.step_bitCell (h : s.CellEnds e rest c l)
    (hh : (e.idx - l) * 1000000 < 100 * s.fs) (ht : (e.idx - c) * 1000000 ≤ 130 * s.fs)
    (hg : g = true ↔ l - c > e.idx - l) :
    step s = exec (if counterIdle s.bitCount then .highBitstart g
      else if byteCompletes s.bitCount then .highBitbyte g else .highBit g) s := by
  have hlonger : lowLonger (l - c) (e.idx - l) = g :=
    Bool.eq_iff_iff.mpr (lowLonger_iff.trans hg.symm)
  rw [h.step_eq, if_pos (phaseShort_iff.mpr hh), if_pos (cellIsBit_iff.mpr ht), hlonger]

/-- A short high in a cell over 130 microseconds: `A` selects (R69, R123, R124). -/
theorem State.CellEnds.step_stretched (h : s.CellEnds e rest c l)
    (hh : (e.idx - l) * 1000000 < 100 * s.fs) (ht : 130 * s.fs < (e.idx - c) * 1000000) :
    step s = exec (if phaseShort s.fs (l - c) then .highStopcell else .highStart) s := by
  rw [h.step_eq, if_pos (phaseShort_iff.mpr hh), cellIsBit_false_iff.mpr ht,
    if_neg Bool.false_ne_true]

/-- A high of 100 microseconds or more: `A` selects, whatever the total (R69, R125, R126). -/
theorem State.CellEnds.step_longHigh (h : s.CellEnds e rest c l)
    (hh : 100 * s.fs ≤ (e.idx - l) * 1000000) :
    step s = exec (if phaseShort s.fs (l - c) then .highStopidle else .highIdle) s := by
  rw [h.step_eq, phaseShort_false_iff.mpr hh, if_neg Bool.false_ne_true]

end Sys2Proof.Machine
end

section
/-! The high-phase operations (spec/42_high_phase.md): the effect and the selection of each but
`HIGH.BITSTART` (R120, R122 to R126). -/

namespace Sys2Proof.Machine

variable {s : State} {e : Edge} {rest : List Input} {g : Bool}

/-- What `HIGH.BIT` does to the event at the head of the input (R120). -/
theorem exec_highBit (h : s.input = .edge e :: rest) :
    exec (.highBit g) s = .next (((s.consume e rest).bitCell g e).beginCell e.idx) :=
  onEdge_edge (f := fun e t => (t.bitCell g e).beginCell e.idx) h

/-- What `HIGH.BITBYTE` does to the event at the head of the input: the payload is the shifted
`byte` (R122). -/
theorem exec_highBitbyte (h : s.input = .edge e :: rest) :
    exec (.highBitbyte g) s = .next ((((s.consume e rest).bitCell g e).emit .byte
      ((s.consume e rest).bitCell g e).readByteS e.idx
      ((s.consume e rest).bitCell g e).byte).beginCell e.idx) :=
  onEdge_edge (f := fun e t =>
    ((t.bitCell g e).emit .byte (t.bitCell g e).readByteS e.idx (t.bitCell g e).byte).beginCell
      e.idx) h

/-- What `HIGH.STOPCELL` does to the event at the head of the input (R123). -/
theorem exec_highStopcell (h : s.input = .edge e :: rest) :
    exec .highStopcell s =
      .next ((((s.consume e rest).emitHigh e).emitCell .stop e 0).beginCell e.idx) :=
  onEdge_edge (f := fun e t => ((t.emitHigh e).emitCell .stop e 0).beginCell e.idx) h

/-- What `HIGH.START` does to the event at the head of the input (R124). -/
theorem exec_highStart (h : s.input = .edge e :: rest) :
    exec .highStart s = .next (((((s.consume e rest).emitHigh e).emit .start
      (s.consume e rest).readLowE e.idx 0).setBitCount 0).beginCell e.idx) :=
  onEdge_edge (f := fun e t =>
    (((t.emitHigh e).emit .start t.readLowE e.idx 0).setBitCount 0).beginCell e.idx) h

/-- What `HIGH.STOPIDLE` does to the event at the head of the input (R125). -/
theorem exec_highStopidle (h : s.input = .edge e :: rest) :
    exec .highStopidle s = .next ((((s.consume e rest).emit .stop (s.consume e rest).readCellS
      (s.consume e rest).readLowE 0).framingReset).beginCell e.idx) :=
  onEdge_edge (f := fun e t =>
    ((t.emit .stop t.readCellS t.readLowE 0).framingReset).beginCell e.idx) h

/-- What `HIGH.IDLE` does to the event at the head of the input (R126). -/
theorem exec_highIdle (h : s.input = .edge e :: rest) :
    exec .highIdle s = .next ((s.consume e rest).framingReset.beginCell e.idx) :=
  onEdge_edge (f := fun e t => t.framingReset.beginCell e.idx) h

/-- Settles O28: the effect from `bitCell` with its registers read, the selection as a bit cell with
neither `M` nor `Z`. -/
theorem highBitEffect : Obligations.HighBitEffect := by
  unfold Obligations.HighBitEffect
  constructor
  · intro g s e rest c l h hc hl
    rw [exec_highBit h, State.bitCell_of_some (s := s.consume e rest) hc hl]
    rfl
  · intro s e rest c l h hh ht hidle hbyte g hg
    rw [h.step_bitCell hh ht hg, counterIdle_false_iff.mpr hidle,
      byteCompletes_false_iff.mpr hbyte, if_neg Bool.false_ne_true, if_neg Bool.false_ne_true]

/-- Settles O30: the effect from `bitCell` and one more record, read after the shift; the selection
as a bit cell with `Z` and not `M`. -/
theorem highBitbyteEffect : Obligations.HighBitbyteEffect := by
  unfold Obligations.HighBitbyteEffect
  constructor
  · intro g s e rest b c l h hb hc hl
    rw [exec_highBitbyte h, State.bitCell_readByteS, State.consume_readByteS,
      s.readByteS_of_some b hb, State.bitCell_of_some (s := s.consume e rest) hc hl]
    simp only [State.emit, List.append_assoc]
    rfl
  · intro s e rest c l h hh ht hidle hbyte g hg
    rw [h.step_bitCell hh ht hg, counterIdle_false_iff.mpr hidle, if_neg Bool.false_ne_true,
      if_pos (byteCompletes_iff.mpr hbyte)]

/-- Settles O31: the effect from the two records over `low_e` and `cell_s`, the selection as a
stretched cell with `A`. -/
theorem highStopcellEffect : Obligations.HighStopcellEffect := by
  unfold Obligations.HighStopcellEffect
  constructor
  · intro s e rest c l h hc hl
    rw [exec_highStopcell h, State.emitHigh_emitCell_of_some (s := s.consume e rest) .stop 0 hc hl]
    rfl
  · intro s e rest c l h hh ht hs
    rw [h.step_stretched hh ht, if_pos (phaseShort_iff.mpr hs)]

/-- Settles O32: the effect from the two records over the high phase, the selection as a stretched
cell without `A`. -/
theorem highStartEffect : Obligations.HighStartEffect := by
  unfold Obligations.HighStartEffect
  constructor
  · intro s e rest c l h hc hl
    rw [exec_highStart h, State.emitHigh_of_some (s := s.consume e rest) hl, State.consume_readLowE,
      s.readLowE_of_some l hl, State.emit_emit]
    rfl
  · intro s e rest c l h hh ht hlong
    rw [h.step_stretched hh ht, phaseShort_false_iff.mpr hlong, if_neg Bool.false_ne_true]

/-- Settles O33: the effect from the one record over the low phase, the selection as a long high
with `A`. -/
theorem highStopidleEffect : Obligations.HighStopidleEffect := by
  unfold Obligations.HighStopidleEffect
  constructor
  · intro s e rest c l h hc hl
    rw [exec_highStopidle h, State.consume_readCellS, State.consume_readLowE,
      s.readCellS_of_some c hc, s.readLowE_of_some l hl]
    rfl
  · intro s e rest c l h hh hs
    rw [h.step_longHigh hh, if_pos (phaseShort_iff.mpr hs)]

/-- Settles O34: the effect from `exec_highIdle`, the selection as a long high without `A`. -/
theorem highIdleEffect : Obligations.HighIdleEffect := by
  unfold Obligations.HighIdleEffect
  constructor
  · intro s e rest h
    exact exec_highIdle h
  · intro s e rest c l h hh hlong
    rw [h.step_longHigh hh, phaseShort_false_iff.mpr hlong, if_neg Bool.false_ne_true]

end Sys2Proof.Machine
end

section
/-! The encoding (spec/30_encoding.md section 3): decoding answers the operation of every word of
its row (R70), each word is a word of exactly one row (R69, R71), and the fields a phase does not
evaluate do not matter (R68). -/

namespace Sys2Proof

open Machine

variable {w : Osw} {i : Instr}

/-- The decoder with its fields written as bits of the word (R63). -/
theorem decode_eq_bits (w : Osw) : decode w =
    if w.extractLsb' 9 2 = 0 then (if w.getLsbD 8 then .seqSkipSync else .seqSync)
    else if w.extractLsb' 9 2 = 1 then
      (if w.getLsbD 8 then
        (if w.getLsbD 7 then .lowShort else if w.getLsbD 6 then .lowReset
         else if w.getLsbD 5 then .lowSrq else .lowAttn)
       else .seqSkipLow)
    else if w.extractLsb' 9 2 = 2 then
      (if w.getLsbD 8 then .seqSkipHigh
       else if w.getLsbD 4 then
        (if w.getLsbD 3 then
          (if w.getLsbD 2 then .highBitstart (w.getLsbD 0)
           else if w.getLsbD 1 then .highBitbyte (w.getLsbD 0) else .highBit (w.getLsbD 0))
         else if w.getLsbD 7 then .highStopcell else .highStart)
       else if w.getLsbD 7 then .highStopidle else .highIdle)
    else .seqDead := rfl

/-- Decoding gives back the operation of any of its words (R70). -/
theorem decode_encodeWith (i : Instr) (x : Osw) : decode (encodeWith i x) = i := by
  rw [decode_eq_bits]
  cases i
  case highBit g | highBitstart g | highBitbyte g =>
    cases g <;>
      simp [encodeWith, encode, Instr.careMask, BitVec.extractLsb'_or, BitVec.extractLsb'_and]
  all_goals
    simp [encodeWith, encode, Instr.careMask, BitVec.extractLsb'_or, BitVec.extractLsb'_and]

/-- Settles O2, one row at a time by `decode_encodeWith`. -/
theorem everyWordOfAnOperationDecodesToIt : Obligations.EveryWordOfAnOperationDecodesToIt := by
  unfold Obligations.EveryWordOfAnOperationDecodesToIt
  exact decode_encodeWith

/-- A word that has an operation's fixed and operand bits is a word of that operation. -/
theorem encodeWith_self (h : w &&& i.careMask = encode i) : encodeWith i w = w := by
  rw [encodeWith, ← h, ← BitVec.and_or_distrib_left, BitVec.or_not_self, BitVec.and_allOnes]

/-- Settles O1: sixteen closed words. -/
theorem patternWordsDecode : Obligations.PatternWordsDecode := by
  unfold Obligations.PatternWordsDecode
  decide

/-- Settles O3: the 2048 words. -/
theorem everyWordEncodesItsOperation : Obligations.EveryWordEncodesItsOperation := by
  unfold Obligations.EveryWordEncodesItsOperation
  decide

/-- Settles O6: nine kinds and seven unused codes. -/
theorem kindCodesAreTheListingOrder : Obligations.KindCodesAreTheListingOrder := by
  unfold Obligations.KindCodesAreTheListingOrder
  refine ⟨rfl, rfl, rfl, rfl, rfl, rfl, rfl, rfl, rfl, ?_, ?_⟩
  · intro k
    cases k <;> rfl
  · decide

/-- The values of `P`. -/
theorem Osw.p_cases (w : Osw) : w.p = 0 ∨ w.p = 1 ∨ w.p = 2 ∨ w.p = 3 := by
  generalize w.p = p
  revert p
  decide

/-- Settles O5: in each phase and direction the flipped bits are none that the decoder reads. -/
theorem decoderIgnoresUnevaluatedFields : Obligations.DecoderIgnoresUnevaluatedFields := by
  unfold Obligations.DecoderIgnoresUnevaluatedFields
  intro w x
  have hp : w.extractLsb' 9 2 = w.p := rfl
  have hd : w[8] = w.d := rfl
  rw [decode_eq_bits, decode_eq_bits w]
  rcases w.p_cases with h | h | h | h <;> cases h' : w.d <;>
    simp [evaluatedMask, Phase.code, hp, hd, h, h', BitVec.extractLsb'_xor,
      BitVec.extractLsb'_and]

/-- Every word of an operation has the pattern of its row under the row's mask (R70). -/
theorem selects_encodeWith {r : TableRow} (hr : r ∈ opcodeTable) (g : Bool) (x : Osw) :
    r.selects (encodeWith (r.op g) x) = true := by
  have hpat : encode (r.op g) &&& r.mask = r.pattern := by
    revert g r
    decide
  have hmask : ~~~(r.op g).careMask &&& r.mask = 0 := by
    revert g r
    decide
  rw [TableRow.selects, encodeWith, BitVec.and_comm, BitVec.and_or_distrib_left,
    BitVec.and_comm _ (encode _), hpat, BitVec.and_comm, BitVec.and_assoc, hmask]
  simp

/-- The bits a row's operation fixes are those under the row's mask, and bit 0 where `G` is an
operand (R66, R70). -/
theorem careMask_op {r : TableRow} (hr : r ∈ opcodeTable) (g : Bool) :
    ((r.op g).careMask = r.mask ∧ encode (r.op g) = r.pattern) ∨
      ((r.op g).careMask = r.mask ||| 1 ∧
        encode (r.op g) = r.pattern ||| (BitVec.ofBool g).setWidth 11) := by
  revert g r
  decide

theorem Osw.and_one (w : Osw) : w &&& 1 = (BitVec.ofBool w.g).setWidth 11 := by
  apply BitVec.eq_of_getLsbD_eq
  intro k hk
  cases k <;> simp [Osw.g]

/-- A word with the pattern of a row decodes to the row's operation (R69, R71). -/
theorem decode_of_selects {r : TableRow} (hr : r ∈ opcodeTable) (h : r.selects w = true) :
    decode w = r.op w.g := by
  have hpat : w &&& r.mask = r.pattern := by simpa [TableRow.selects] using h
  have hcare : w &&& (r.op w.g).careMask = encode (r.op w.g) := by
    rcases careMask_op hr w.g with ⟨hm, he⟩ | ⟨hm, he⟩
    · rw [hm, he, hpat]
    · rw [hm, he, BitVec.and_or_distrib_left, hpat, Osw.and_one]
  calc decode w = decode (encodeWith (r.op w.g) w) := by rw [encodeWith_self hcare]
    _ = r.op w.g := decode_encodeWith _ w

/-- Every operation the decoder answers has its row (R70). -/
theorem exists_row (w : Osw) : ∃ r ∈ opcodeTable, r.op w.g = decode w := by
  rw [decode_eq_bits]
  split_ifs <;> simp [opcodeTable, Osw.g]

/-- Only one row of the table has a given operation. -/
theorem filter_row {r : TableRow} (hr : r ∈ opcodeTable) (g : Bool) :
    opcodeTable.filter (fun r' => r'.op g = r.op g) = [r] := by
  revert r
  simp only [opcodeTable, List.forall_mem_cons]
  cases g <;> simp

/-- Settles O4: a row selects a word exactly where it has the decoded operation. -/
theorem exactlyOneRowSelectsEachWord : Obligations.ExactlyOneRowSelectsEachWord := by
  unfold Obligations.ExactlyOneRowSelectsEachWord
  intro w
  obtain ⟨r, hr, hop⟩ := exists_row w
  have hsel : ∀ r' ∈ opcodeTable, r'.selects w = decide (r'.op w.g = r.op w.g) := by
    intro r' hr'
    rw [Bool.eq_iff_iff, decide_eq_true_iff]
    constructor
    · intro h
      rw [← decode_of_selects hr' h, hop]
    · intro h
      have hw : encodeWith (r'.op w.g) w = w := by
        rw [h, hop]
        exact everyWordEncodesItsOperation w
      rw [← hw]
      exact selects_encodeWith hr' w.g w
  exact ⟨r, by rw [List.filter_congr hsel, filter_row hr], hop⟩

end Sys2Proof
end

section
/-! One step on an event (spec/40_timebase_and_sequencer.md R99): what each operation does to the
state that has consumed its event, which operation is selected, and the step as the two together. -/

namespace Sys2Proof.Machine

variable {s t : State} {e : Edge} {rest : List Input} {i : Instr}

/-! The shared emissions are `emit`, and a bit cell field by field. -/

@[simp] theorem State.emitLowPhase_eq (s : State) (k : Kind) (e : Edge) :
    s.emitLowPhase k e = s.emit k s.readCellS e.idx 0 := rfl
@[simp] theorem State.emitHigh_eq (s : State) (e : Edge) :
    s.emitHigh e = s.emit .high s.readLowE e.idx 0 := rfl
@[simp] theorem State.emitCell_eq (s : State) (k : Kind) (e : Edge) (v : Byte) :
    s.emitCell k e v = s.emit k s.readCellS e.idx v := rfl

section
variable (s : State) (g : Bool) (e : Edge)

@[simp] theorem State.bitCell_fs : (s.bitCell g e).fs = s.fs := rfl
@[simp] theorem State.bitCell_phase : (s.bitCell g e).phase = s.phase := rfl
@[simp] theorem State.bitCell_fault : (s.bitCell g e).fault = s.fault := rfl
@[simp] theorem State.bitCell_byte :
    (s.bitCell g e).byte = ((s.byte <<< 1) &&& Config.byteMask) ||| bitOf g := rfl
@[simp] theorem State.bitCell_bitCount : (s.bitCell g e).bitCount = s.bitCount + 1 := rfl
@[simp] theorem State.bitCell_byteS : (s.bitCell g e).byteS = s.byteS := rfl
@[simp] theorem State.bitCell_cellS : (s.bitCell g e).cellS = s.cellS := rfl
@[simp] theorem State.bitCell_lowE : (s.bitCell g e).lowE = s.lowE := rfl
@[simp] theorem State.bitCell_lastIdx : (s.bitCell g e).lastIdx = s.lastIdx := rfl
@[simp] theorem State.bitCell_input : (s.bitCell g e).input = s.input := rfl
@[simp] theorem State.bitCell_freeCount : (s.bitCell g e).freeCount = s.freeCount := rfl
@[simp] theorem State.bitCell_readCellS : (s.bitCell g e).readCellS = s.readCellS := rfl
@[simp] theorem State.bitCell_readLowE : (s.bitCell g e).readLowE = s.readLowE := rfl
@[simp] theorem State.bitCell_out : (s.bitCell g e).out =
    s.out ++ [⟨.high, s.readLowE, e.idx, 0⟩, ⟨.bit, s.readCellS, e.idx, bitOf g⟩] := by
  simp [State.bitCell]

end

/-- What an operation does to the state in which its event is consumed. -/
def effect (i : Instr) (e : Edge) (t : State) : State :=
  match i with
  | .seqSync => t.beginCell e.idx
  | .seqSkipSync | .seqSkipLow | .seqSkipHigh | .seqDead => t
  | .lowShort => ((t.emitLowPhase .low e).captureByteS).endLow e.idx
  | .lowReset => (t.emitLowPhase .reset e).endLow e.idx
  | .lowAttn => ((t.emitLowPhase .attention e).framingReset).endLow e.idx
  | .lowSrq => ((t.emitLowPhase .serviceRequest e).framingReset).endLow e.idx
  | .highBit g => (t.bitCell g e).beginCell e.idx
  | .highBitstart g => (((t.bitCell g e).setBitCount 0).emitCell .start e 0).beginCell e.idx
  | .highBitbyte g =>
    ((t.bitCell g e).emit .byte t.readByteS e.idx (t.bitCell g e).byte).beginCell e.idx
  | .highStopcell => ((t.emitHigh e).emitCell .stop e 0).beginCell e.idx
  | .highStart =>
    (((t.emitHigh e).emit .start t.readLowE e.idx 0).setBitCount 0).beginCell e.idx
  | .highStopidle => ((t.emit .stop t.readCellS t.readLowE 0).framingReset).beginCell e.idx
  | .highIdle => t.framingReset.beginCell e.idx

/-- Every meaning runs its effect on the event at the head of the input. -/
theorem exec_eq_onEdge (i : Instr) (s : State) : exec i s = onEdge s (effect i) := by
  cases i <;> rfl

theorem exec_edge (h : s.input = .edge e :: rest) :
    exec i s = .next (effect i e (s.consume e rest)) := by
  rw [exec_eq_onEdge, onEdge_edge h]

/-! What every operation leaves alone. -/

@[simp] theorem effect_fs : (effect i e t).fs = t.fs := by cases i <;> rfl
@[simp] theorem effect_fault : (effect i e t).fault = t.fault := by cases i <;> rfl
@[simp] theorem effect_freeCount : (effect i e t).freeCount = t.freeCount := by cases i <;> rfl
@[simp] theorem effect_input : (effect i e t).input = t.input := by cases i <;> rfl
@[simp] theorem effect_lastIdx : (effect i e t).lastIdx = t.lastIdx := by cases i <;> rfl

/-- The records an operation emits, in emission order. -/
def records (i : Instr) (e : Edge) (t : State) : List Ann :=
  match i with
  | .seqSync | .seqSkipSync | .seqSkipLow | .seqSkipHigh | .seqDead | .highIdle => []
  | .lowShort => [⟨.low, t.readCellS, e.idx, 0⟩]
  | .lowReset => [⟨.reset, t.readCellS, e.idx, 0⟩]
  | .lowAttn => [⟨.attention, t.readCellS, e.idx, 0⟩]
  | .lowSrq => [⟨.serviceRequest, t.readCellS, e.idx, 0⟩]
  | .highBit g => [⟨.high, t.readLowE, e.idx, 0⟩, ⟨.bit, t.readCellS, e.idx, bitOf g⟩]
  | .highBitstart g =>
    [⟨.high, t.readLowE, e.idx, 0⟩, ⟨.bit, t.readCellS, e.idx, bitOf g⟩,
      ⟨.start, t.readCellS, e.idx, 0⟩]
  | .highBitbyte g =>
    [⟨.high, t.readLowE, e.idx, 0⟩, ⟨.bit, t.readCellS, e.idx, bitOf g⟩,
      ⟨.byte, t.readByteS, e.idx, ((t.byte <<< 1) &&& Config.byteMask) ||| bitOf g⟩]
  | .highStopcell => [⟨.high, t.readLowE, e.idx, 0⟩, ⟨.stop, t.readCellS, e.idx, 0⟩]
  | .highStart => [⟨.high, t.readLowE, e.idx, 0⟩, ⟨.start, t.readLowE, e.idx, 0⟩]
  | .highStopidle => [⟨.stop, t.readCellS, t.readLowE, 0⟩]

/-- An operation appends its records and retracts nothing (R43). -/
@[simp] theorem effect_out : (effect i e t).out = t.out ++ records i e t := by
  cases i <;> simp [effect, records]

/-- The LOW case of R99 in terms of the predicates of R30. -/
theorem selectLow_eq (s : State) (idx : Nat) : selectLow s idx =
    if phaseShort s.fs (s.lowSoFar idx) then .lowShort
    else if phaseReset s.fs (s.lowSoFar idx) then .lowReset
    else if srqPosition s.bitCount then .lowSrq else .lowAttn := by
  rfl

/-- The HIGH case of R99 in terms of the predicates of R30. -/
theorem selectHigh_eq (s : State) (idx : Nat) : selectHigh s idx =
    if phaseShort s.fs (s.dh idx) then
      if cellIsBit s.fs (s.dt idx) then
        if counterIdle s.bitCount then .highBitstart (lowLonger s.dl (s.dh idx))
        else if byteCompletes s.bitCount then .highBitbyte (lowLonger s.dl (s.dh idx))
        else .highBit (lowLonger s.dl (s.dh idx))
      else if phaseShort s.fs s.dl then .highStopcell else .highStart
    else if phaseShort s.fs s.dl then .highStopidle else .highIdle := by
  rfl

/-- The word of R70 and the code of R99 select the same operation. -/
theorem decode_assemble (s : State) (e : Edge) : decode (assemble s e) = select s e := by
  cases hp : s.phase <;> cases hd : e.dir
  case low.rise =>
    rw [assemble_low hp hd, decode_pack_low, if_pos rfl, ← selectLow_eq]
    simp [select, hp, hd]
  case high.fall =>
    rw [assemble_high hp hd, decode_pack_high, if_neg Bool.false_ne_true, ← selectHigh_eq]
    simp [select, hp, hd]
  all_goals
    rw [assemble_other (by simp [hp, hd]) (by simp [hp, hd])]
    simp [select, hp, hd, Dir.bit, decode_pack_sync, decode_pack_low, decode_pack_high,
      decode_pack_fault]

/-- A step on an accepted event. -/
theorem step_event (h : s.input = .edge e :: rest) (ha : s.accepts e = true) :
    step s = .next (effect (select s e) e (s.consume e rest)) := by
  rw [step_accepted h ha, decode_assemble, exec_edge h]

theorem step_refused (h : s.input = .edge e :: rest) (ha : s.accepts e = false) :
    step s = .refused .nonMonotonicIndex := by
  simp only [step, fetch_refused h ha]

theorem step_start {fs : Nat} (h : s.input = .start fs :: rest) :
    step s = .next (startPass fs s) := by
  simp only [step, fetch_start h]

theorem step_wait (h : s.input = []) : step s = .next s := by
  simp only [step, fetch_nil h]

/-- A step on an event that answers a next state. -/
theorem of_step_event (h : s.input = .edge e :: rest) (ht : step s = .next t) :
    s.accepts e = true ∧ t = effect (select s e) e (s.consume e rest) := by
  cases ha : s.accepts e with
  | true =>
    rw [step_event h ha] at ht
    cases ht
    exact ⟨rfl, rfl⟩
  | false =>
    rw [step_refused h ha] at ht
    cases ht

/-- Everything a step can do when it answers a next state, with the operation's effect. -/
theorem step_next (h : step s = .next t) :
    (s.input = [] ∧ t = s) ∨
      (∃ fs rest, s.input = .start fs :: rest ∧ t = startPass fs s) ∨
      (∃ e rest, s.input = .edge e :: rest ∧ s.accepts e = true ∧
        t = effect (select s e) e (s.consume e rest)) := by
  rcases step_cases h with hw | hs | ⟨e, rest, hi, -, -⟩
  · exact .inl hw
  · exact .inr (.inl hs)
  · exact .inr (.inr ⟨e, rest, hi, of_step_event hi h⟩)

/-! The dispatch of R99 by phase and direction. -/

theorem select_sync_fall (hp : s.phase = .sync) (hd : e.dir = .fall) : select s e = .seqSync := by
  simp only [select, hp, hd]

theorem select_sync_rise (hp : s.phase = .sync) (hd : e.dir = .rise) :
    select s e = .seqSkipSync := by
  simp only [select, hp, hd]

theorem select_low_fall (hp : s.phase = .low) (hd : e.dir = .fall) : select s e = .seqSkipLow := by
  simp only [select, hp, hd]

theorem select_low_rise (hp : s.phase = .low) (hd : e.dir = .rise) :
    select s e = selectLow s e.idx := by
  simp only [select, hp, hd]

theorem select_high_rise (hp : s.phase = .high) (hd : e.dir = .rise) :
    select s e = .seqSkipHigh := by
  simp only [select, hp, hd]

theorem select_high_fall (hp : s.phase = .high) (hd : e.dir = .fall) :
    select s e = selectHigh s e.idx := by
  simp only [select, hp, hd]

theorem select_fault (hp : s.phase = .fault) : select s e = .seqDead := by
  simp only [select, hp]

/-- The phase does not wait for the event (R101, R102). -/
def State.Skips (s : State) (e : Edge) : Prop :=
  s.phase = .sync ∧ e.dir = .rise ∨ s.phase = .fault ∨ s.phase = .low ∧ e.dir = .fall ∨
    s.phase = .high ∧ e.dir = .rise

/-- An event the phase does not wait for is consumed, and nothing else happens. -/
theorem State.Skips.effect_eq (h : s.Skips e) (t : State) : effect (select s e) e t = t := by
  rcases h with ⟨hp, hd⟩ | hp | ⟨hp, hd⟩ | ⟨hp, hd⟩
  · rw [select_sync_rise hp hd]; rfl
  · rw [select_fault hp]; rfl
  · rw [select_low_fall hp hd]; rfl
  · rw [select_high_rise hp hd]; rfl

/-- The four situations of an event: it begins the first cell, it is one the phase does not wait
for, it ends a low phase, it ends a cell. -/
theorem event_cases (s : State) (e : Edge) :
    (s.phase = .sync ∧ e.dir = .fall) ∨ s.Skips e ∨ (s.phase = .low ∧ e.dir = .rise) ∨
      (s.phase = .high ∧ e.dir = .fall) := by
  unfold State.Skips
  cases s.phase <;> cases e.dir <;> decide

/-- The selection reads the phase, the rate, `cell_s`, `low_e` and three predicates of the
counter. -/
theorem select_congr {v : State} (hp : s.phase = v.phase) (hfs : s.fs = v.fs)
    (hc : s.cellS = v.cellS) (hl : s.lowE = v.lowE)
    (hq : srqPosition s.bitCount = srqPosition v.bitCount)
    (hm : counterIdle s.bitCount = counterIdle v.bitCount)
    (hz : byteCompletes s.bitCount = byteCompletes v.bitCount) : select s e = select v e := by
  have hcell : s.readCellS = v.readCellS := by rw [State.readCellS, State.readCellS, hc]
  have hlow : s.readLowE = v.readLowE := by rw [State.readLowE, State.readLowE, hl]
  have hsofar : s.lowSoFar e.idx = v.lowSoFar e.idx := by
    rw [State.lowSoFar, State.lowSoFar, hcell]
  have hdl : s.dl = v.dl := by rw [State.dl, State.dl, hcell, hlow]
  have hdh : s.dh e.idx = v.dh e.idx := by rw [State.dh, State.dh, hlow]
  have hdt : s.dt e.idx = v.dt e.idx := by rw [State.dt, State.dt, hcell]
  rcases event_cases v e with ⟨hv, hd⟩ | (⟨hv, hd⟩ | hv | ⟨hv, hd⟩ | ⟨hv, hd⟩) | ⟨hv, hd⟩ | ⟨hv, hd⟩
  · rw [select_sync_fall hv hd, select_sync_fall (hp.trans hv) hd]
  · rw [select_sync_rise hv hd, select_sync_rise (hp.trans hv) hd]
  · rw [select_fault hv, select_fault (hp.trans hv)]
  · rw [select_low_fall hv hd, select_low_fall (hp.trans hv) hd]
  · rw [select_high_rise hv hd, select_high_rise (hp.trans hv) hd]
  · rw [select_low_rise hv hd, select_low_rise (hp.trans hv) hd, selectLow_eq, selectLow_eq, hfs,
      hsofar, hq]
  · rw [select_high_fall hv hd, select_high_fall (hp.trans hv) hd, selectHigh_eq, selectHigh_eq,
      hfs, hdl, hdh, hdt, hm, hz]

/-- What accepting an event reads. -/
theorem accepts_congr {v : State} (hp : s.phase = v.phase) (hc : s.cellS = v.cellS)
    (hl : s.lowE = v.lowE) (hlast : s.lastIdx = v.lastIdx) : s.accepts e = v.accepts e := by
  simp only [State.accepts, State.inOrder, State.measurable, State.readCellS, State.readLowE, hp,
    hc, hl, hlast]

/-- Everything a step on an event can do when it answers a next state. -/
theorem step_event_cases (h : s.input = .edge e :: rest) (ht : step s = .next t) :
    s.accepts e = true ∧
      ((s.phase = .sync ∧ e.dir = .fall ∧ t = (s.consume e rest).beginCell e.idx) ∨
        (s.Skips e ∧ t = s.consume e rest) ∨
        (s.phase = .low ∧ e.dir = .rise ∧ t = effect (selectLow s e.idx) e (s.consume e rest)) ∨
        (s.phase = .high ∧ e.dir = .fall ∧
          t = effect (selectHigh s e.idx) e (s.consume e rest))) := by
  obtain ⟨ha, rfl⟩ := of_step_event h ht
  refine ⟨ha, ?_⟩
  rcases event_cases s e with ⟨hp, hd⟩ | hs | ⟨hp, hd⟩ | ⟨hp, hd⟩
  · exact .inl ⟨hp, hd, by rw [select_sync_fall hp hd]; rfl⟩
  · exact .inr (.inl ⟨hs, hs.effect_eq _⟩)
  · exact .inr (.inr (.inl ⟨hp, hd, by rw [select_low_rise hp hd]⟩))
  · exact .inr (.inr (.inr ⟨hp, hd, by rw [select_high_fall hp hd]⟩))

/-- Which operation ends a low phase, by its class and the counter (R69). -/
inductive SelectsLow (s : State) (idx : Nat) : Instr → Prop
  | short (hs : phaseShort s.fs (s.lowSoFar idx) = true) : SelectsLow s idx .lowShort
  | reset (hs : phaseShort s.fs (s.lowSoFar idx) = false)
      (hr : phaseReset s.fs (s.lowSoFar idx) = true) : SelectsLow s idx .lowReset
  | srq (hs : phaseShort s.fs (s.lowSoFar idx) = false)
      (hr : phaseReset s.fs (s.lowSoFar idx) = false) (hn : s.bitCount = 8) :
      SelectsLow s idx .lowSrq
  | attn (hs : phaseShort s.fs (s.lowSoFar idx) = false)
      (hr : phaseReset s.fs (s.lowSoFar idx) = false) (hn : s.bitCount ≠ 8) :
      SelectsLow s idx .lowAttn

theorem selectsLow (s : State) (idx : Nat) : SelectsLow s idx (selectLow s idx) := by
  rw [selectLow_eq]
  split_ifs with hs hr hq
  · exact .short hs
  · exact .reset (Bool.eq_false_iff.mpr hs) hr
  · exact .srq (Bool.eq_false_iff.mpr hs) (Bool.eq_false_iff.mpr hr) (srqPosition_iff.mp hq)
  · exact .attn (Bool.eq_false_iff.mpr hs) (Bool.eq_false_iff.mpr hr) (mt srqPosition_iff.mpr hq)

/-- Which operation ends a cell, by the classes of its phases and the counter (R69). -/
inductive SelectsHigh (s : State) (idx : Nat) : Instr → Prop
  | bitstart (hh : phaseShort s.fs (s.dh idx) = true) (ht : cellIsBit s.fs (s.dt idx) = true)
      (hn : s.bitCount = -1) : SelectsHigh s idx (.highBitstart (lowLonger s.dl (s.dh idx)))
  | bitbyte (hh : phaseShort s.fs (s.dh idx) = true) (ht : cellIsBit s.fs (s.dt idx) = true)
      (hn : s.bitCount ≠ -1) (hz : (s.bitCount + 1) % 8 = 0) :
      SelectsHigh s idx (.highBitbyte (lowLonger s.dl (s.dh idx)))
  | bit (hh : phaseShort s.fs (s.dh idx) = true) (ht : cellIsBit s.fs (s.dt idx) = true)
      (hn : s.bitCount ≠ -1) (hz : (s.bitCount + 1) % 8 ≠ 0) :
      SelectsHigh s idx (.highBit (lowLonger s.dl (s.dh idx)))
  | stopcell (hh : phaseShort s.fs (s.dh idx) = true) (ht : cellIsBit s.fs (s.dt idx) = false)
      (hs : phaseShort s.fs s.dl = true) : SelectsHigh s idx .highStopcell
  | start (hh : phaseShort s.fs (s.dh idx) = true) (ht : cellIsBit s.fs (s.dt idx) = false)
      (hs : phaseShort s.fs s.dl = false) : SelectsHigh s idx .highStart
  | stopidle (hh : phaseShort s.fs (s.dh idx) = false) (hs : phaseShort s.fs s.dl = true) :
      SelectsHigh s idx .highStopidle
  | idle (hh : phaseShort s.fs (s.dh idx) = false) (hs : phaseShort s.fs s.dl = false) :
      SelectsHigh s idx .highIdle

theorem selectsHigh (s : State) (idx : Nat) : SelectsHigh s idx (selectHigh s idx) := by
  rw [selectHigh_eq]
  split_ifs with hh ht hn hz hs hs
  · exact .bitstart hh ht (counterIdle_iff.mp hn)
  · exact .bitbyte hh ht (mt counterIdle_iff.mpr hn) (byteCompletes_iff.mp hz)
  · exact .bit hh ht (mt counterIdle_iff.mpr hn) (mt byteCompletes_iff.mpr hz)
  · exact .stopcell hh (Bool.eq_false_iff.mpr ht) hs
  · exact .start hh (Bool.eq_false_iff.mpr ht) (Bool.eq_false_iff.mpr hs)
  · exact .stopidle (Bool.eq_false_iff.mpr hh) hs
  · exact .idle (Bool.eq_false_iff.mpr hh) (Bool.eq_false_iff.mpr hs)

end Sys2Proof.Machine
end

section
/-! Selecting and stepping, pass start and the fault, the operations one by one and the
whole-machine rules (spec/40_timebase_and_sequencer.md, 41_low_phase.md, 42_high_phase.md,
60_exceptions.md, 70_reset_and_hazards.md): each read off the step on an event. -/

namespace Sys2Proof.Machine

variable {s t : State} {e : Edge} {rest : List Input} {i : Instr} {c l : Nat}

/-- Settles O7. -/
theorem stepRunsTheDecodedOperation : Obligations.StepRunsTheDecodedOperation := by
  unfold Obligations.StepRunsTheDecodedOperation
  exact ⟨fun s e rest hi ha => step_accepted hi ha, fun s hi => step_wait hi⟩

/-- What an accepted event makes the block do, by the code of R99. -/
theorem fetch_select (hi : s.input = .edge e :: rest) (ha : s.accepts e = true) :
    fetch s = .run (select s e) := by
  rw [fetch_accepted hi ha, decode_assemble]

/-- Settles O8: the assembled word decodes to the operation of R99. -/
theorem selectionFollowsTheDispatchCode : Obligations.SelectionFollowsTheDispatchCode := by
  unfold Obligations.SelectionFollowsTheDispatchCode
  exact fun s e rest hi ha => fetch_select hi ha

/-- Settles O12: an event below the previous one is not accepted. -/
theorem decreasingIndexIsRefused : Obligations.DecreasingIndexIsRefused := by
  unfold Obligations.DecreasingIndexIsRefused
  intro s e rest p hi hl hlt
  have ha : s.accepts e = false := by simp [State.accepts, State.inOrder, hl, hlt]
  exact step_refused hi ha

/-! ## Pass start -/

/-- Settles O13. -/
theorem passStartRegisterValues : Obligations.PassStartRegisterValues := by
  unfold Obligations.PassStartRegisterValues
  constructor
  · rintro fs s hfs t (rfl | rfl)
    · exact ⟨rfl, rfl, rfl, rfl, rfl, rfl, rfl⟩
    · rw [startPass_pos hfs]
      exact ⟨rfl, rfl, rfl, rfl, rfl, rfl, rfl⟩
  · intro s
    rw [startPass_zero]
    exact ⟨rfl, rfl⟩

/-- Settles O14. -/
theorem passStartStep : Obligations.PassStartStep := by
  unfold Obligations.PassStartStep
  constructor
  · intro s fs rest hi hfs
    rw [step_start hi, startPass_pos hfs]
    simp [State.newPass, State.initialise, hi]
  · intro s rest hi
    refine ⟨startPass 0 s, step_start hi, ?_⟩
    rw [startPass_zero]
    simp [hi]

/-- Settles O15: a pass start writes every field from the rate, the rest of the input and the
model's counter. -/
theorem nothingSurvivesAPassStart : Obligations.NothingSurvivesAPassStart := by
  unfold Obligations.NothingSurvivesAPassStart
  intro s v fs rest hs hv hc
  rw [step_start hs, step_start hv]
  by_cases hfs : fs = 0
  · subst hfs
    simp [startPass_zero, State.newPass, State.raiseConfigError, hs, hv, hc]
  · simp [startPass_pos hfs, State.newPass, State.initialise, hs, hv, hc]

/-- Settles O16: waiting and events keep the fault register, and a pass start with a rate clears
it. -/
theorem configErrorOnlyAtPassStart : Obligations.ConfigErrorOnlyAtPassStart := by
  unfold Obligations.ConfigErrorOnlyAtPassStart
  intro s t ht hs hf
  rcases step_next ht with ⟨-, rfl⟩ | ⟨fs, rest, hi, rfl⟩ | ⟨e, rest, -, -, rfl⟩
  · rw [hs] at hf
    cases hf
  · by_cases hfs : fs = 0
    · exact ⟨rest, hfs ▸ hi⟩
    · rw [startPass_pos hfs] at hf
      cases hf
  · rw [effect_fault, State.consume_fault, hs] at hf
    cases hf

/-! ## Events -/

/-- Settles O17: in FAULT an event is skipped. -/
theorem faultIsLeftOnlyByANewPass : Obligations.FaultIsLeftOnlyByANewPass := by
  unfold Obligations.FaultIsLeftOnlyByANewPass
  intro s t e rest hp hf hi ht
  have hskip : s.Skips e := .inr (.inl hp)
  obtain ⟨-, rfl⟩ := of_step_event hi ht
  rw [hskip.effect_eq]
  exact ⟨hp, hf, rfl⟩

/-- Settles O19. -/
theorem eventsLeaveRateAndFault : Obligations.EventsLeaveRateAndFault := by
  unfold Obligations.EventsLeaveRateAndFault
  intro s t e rest hi ht
  obtain ⟨-, rfl⟩ := of_step_event hi ht
  simp

/-- A low-phase operation: the phases it ends and begins. -/
theorem effect_selectLow (s t : State) (e : Edge) (idx : Nat) :
    (effect (selectLow s idx) e t).phase = .high ∧ (effect (selectLow s idx) e t).cellS = t.cellS ∧
      (effect (selectLow s idx) e t).lowE = some e.idx := by
  rw [selectLow_eq]
  split_ifs <;> exact ⟨rfl, rfl, rfl⟩

/-- A high-phase operation: the cells it ends and begins. -/
theorem effect_selectHigh (s t : State) (e : Edge) (idx : Nat) :
    (effect (selectHigh s idx) e t).phase = .low ∧
      (effect (selectHigh s idx) e t).cellS = some e.idx ∧
      (effect (selectHigh s idx) e t).byteS = t.byteS := by
  rw [selectHigh_eq]
  split_ifs <;> exact ⟨rfl, rfl, rfl⟩

/-- Settles O20: phase and direction of the event pick the one clause that applies. -/
theorem phaseTransitions : Obligations.PhaseTransitions := by
  unfold Obligations.PhaseTransitions
  intro s t e rest hi ht
  obtain ⟨-, ⟨hp, hd, rfl⟩ | ⟨hs, rfl⟩ | ⟨hp, hd, rfl⟩ | ⟨hp, hd, rfl⟩⟩ := step_event_cases hi ht
  · simp [hp, hd]
  · rcases hs with ⟨hp, hd⟩ | hp | ⟨hp, hd⟩ | ⟨hp, hd⟩
    · simp [hp, hd]
    · simp [hp]
    · simp [hp, hd]
    · simp [hp, hd]
  · obtain ⟨h₁, h₂, -⟩ := effect_selectLow s (s.consume e rest) e e.idx
    simp [hp, hd, h₁, h₂]
  · obtain ⟨h₁, h₂, -⟩ := effect_selectHigh s (s.consume e rest) e e.idx
    simp [hp, hd, h₁, h₂]

/-- Settles O36. -/
theorem everyOperationCompletesOnAnEvent : Obligations.EveryOperationCompletesOnAnEvent := by
  unfold Obligations.EveryOperationCompletesOnAnEvent
  intro i s
  constructor
  · intro e rest hi
    refine ⟨_, exec_edge hi, ?_⟩
    simp
  · intro hi
    simp [exec_eq_onEdge, onEdge, hi]

/-- Settles O37: operation by operation. -/
theorem bitCountMoves : Obligations.BitCountMoves := by
  unfold Obligations.BitCountMoves
  intro s t e rest hi ht
  obtain ⟨-, rfl⟩ := of_step_event hi ht
  cases select s e <;> simp [effect]

/-- A low-phase operation emits one record (R128). -/
theorem records_selectLow_length (s t : State) (e : Edge) (idx : Nat) :
    (records (selectLow s idx) e t).length = 1 := by
  rw [selectLow_eq]
  split_ifs <;> rfl

/-- No operation emits more than three records (R153). -/
theorem records_length_le (i : Instr) (e : Edge) (t : State) : (records i e t).length ≤ 3 := by
  cases i <;> simp [records]

/-- A skipped event emits nothing. -/
theorem State.Skips.records_eq (h : s.Skips e) (t : State) : records (select s e) e t = [] := by
  have hout := congrArg State.out (h.effect_eq t)
  simpa using hout

/-- Settles O38: the records are those of the selected operation. -/
theorem recordsPerEvent : Obligations.RecordsPerEvent := by
  unfold Obligations.RecordsPerEvent
  intro s t e rest hi ht
  obtain ⟨-, rfl⟩ := of_step_event hi ht
  refine ⟨records (select s e) e (s.consume e rest), effect_out, ?_, ?_, ?_⟩
  · intro hp hd
    rw [select_low_rise hp hd, records_selectLow_length]
  · intro _ _
    exact records_length_le _ _ _
  · rintro (hp | h)
    · cases hd : e.dir with
      | fall =>
        rw [select_sync_fall hp hd]
        rfl
      | rise => exact State.Skips.records_eq (.inl ⟨hp, hd⟩) _
    · exact State.Skips.records_eq (.inr h) _

/-! ## The operations one by one -/

/-- An event in order that the phase does not wait for runs the operation of R99. -/
theorem State.Faces.step_skip (h : s.Faces e rest) (hs : s.Skips e) :
    step s = exec (select s e) s := by
  have hl : ¬ (s.phase = .low ∧ e.dir = .rise) := by
    rintro ⟨hp, hd⟩
    simp [State.Skips, hp, hd] at hs
  have hh : ¬ (s.phase = .high ∧ e.dir = .fall) := by
    rintro ⟨hp, hd⟩
    simp [State.Skips, hp, hd] at hs
  rw [step_accepted h.input (h.accepts_other hl hh), decode_assemble]

/-- Settles O22. -/
theorem seqSkipEffect : Obligations.SeqSkipEffect := by
  unfold Obligations.SeqSkipEffect
  refine ⟨?_, ?_, ?_, ?_⟩
  · rintro i s e rest (rfl | rfl | rfl) hi
    · exact exec_edge hi
    · exact exec_edge hi
    · exact exec_edge hi
  · intro s e rest h hp hd
    rw [h.step_skip (.inl ⟨hp, hd⟩), select_sync_rise hp hd]
  · intro s e rest h hp hd
    rw [h.step_skip (.inr (.inr (.inl ⟨hp, hd⟩))), select_low_fall hp hd]
  · intro s e rest h hp hd
    rw [h.step_skip (.inr (.inr (.inr ⟨hp, hd⟩))), select_high_rise hp hd]

/-- Settles O23. -/
theorem seqDeadEffect : Obligations.SeqDeadEffect := by
  unfold Obligations.SeqDeadEffect
  constructor
  · intro s e rest hi
    exact exec_edge hi
  · intro s e rest h hp
    rw [h.step_skip (.inr (.inl hp)), select_fault hp]

/-- A mid-length low, both bounds inclusive: `Q` selects (R69, R112, R113). -/
theorem State.LowEnds.step_mid (h : s.LowEnds e rest c) (hs : 100 * s.fs ≤ (e.idx - c) * 1000000)
    (hr : (e.idx - c) * 1000000 ≤ 1500 * s.fs) :
    step s = exec (if srqPosition s.bitCount then .lowSrq else .lowAttn) s := by
  rw [h.step_eq, phaseShort_false_iff.mpr hs, phaseReset_false_iff.mpr hr,
    if_neg Bool.false_ne_true, if_neg Bool.false_ne_true]

/-- Settles O26: the effect with `cell_s` read, the selection as a mid-length low without `Q`. -/
theorem lowAttnEffect : Obligations.LowAttnEffect := by
  unfold Obligations.LowAttnEffect
  constructor
  · intro s e rest c hi hc
    have hcell : (s.consume e rest).cellS = some c := hc
    rw [exec_edge hi, effect, State.emitLowPhase_of_some .attention hcell]
    rfl
  · intro s e rest c h hs hr hn
    rw [h.step_mid hs hr, srqPosition_false_iff.mpr hn, if_neg Bool.false_ne_true]

/-- Settles O27: the effect with `cell_s` read, the selection as a mid-length low with `Q`. -/
theorem lowSrqEffect : Obligations.LowSrqEffect := by
  unfold Obligations.LowSrqEffect
  constructor
  · intro s e rest c hi hc
    have hcell : (s.consume e rest).cellS = some c := hc
    rw [exec_edge hi, effect, State.emitLowPhase_of_some .serviceRequest hcell]
    rfl
  · intro s e rest c h hs hr hn
    rw [h.step_mid hs hr, if_pos (srqPosition_iff.mpr hn)]

/-- Settles O29: the effect from `bitCell` and the `Start` record, the selection as a bit cell with
`M`. -/
theorem highBitstartEffect : Obligations.HighBitstartEffect := by
  unfold Obligations.HighBitstartEffect
  constructor
  · intro g s e rest c l hi hc hl
    rw [exec_edge hi, effect, State.bitCell_of_some (s := s.consume e rest) hc hl]
    simp [State.emit, State.setBitCount, State.beginCell, State.consume, State.readCellS, hc, bitOf]
  · intro s e rest c l h hh ht hn g hg
    rw [h.step_bitCell hh ht hg, if_pos (counterIdle_iff.mpr hn)]

/-- Settles O35: the 256 bytes with either bit, by evaluation. -/
theorem shiftIsDoublingModulo256 : Obligations.ShiftIsDoublingModulo256 := by
  unfold Obligations.ShiftIsDoublingModulo256
  intro s g
  refine ⟨?_, rfl⟩
  rw [State.shiftIn_byte]
  generalize s.byte = b
  revert b g
  decide

end Sys2Proof.Machine
end

section
/-! The time base and its realisations (spec/40_timebase_and_sequencer.md section 1,
spec/43_framing_fsm_and_laws.md sections 1 and 5): comparisons as arithmetic. -/

namespace Sys2Proof.Machine

variable {fs d t : Nat}

/-- A sample count in microseconds, as one division (R91). -/
theorem toUs_eq (fs d : Nat) : toUs fs d = (d : ℚ) * 1000000 / fs := by
  simp [toUs, div_div_eq_mul_div]

/-- Settles O54: cross-multiplication by the positive rate. -/
theorem comparisonsAreExact : Obligations.ComparisonsAreExact := by
  unfold Obligations.ComparisonsAreExact
  intro fs d t hfs
  have hpos : (0 : ℚ) < fs := by exact_mod_cast hfs
  refine ⟨toUs_eq fs d, ?_, ?_, ?_⟩
  · rw [usLt_iff, toUs_eq, div_lt_iff₀ hpos]
    exact_mod_cast Iff.rfl
  · rw [usLe_iff, toUs_eq, div_le_iff₀ hpos]
    exact_mod_cast Iff.rfl
  · rw [usGt_iff, toUs_eq, gt_iff_lt, lt_div_iff₀ hpos]
    exact_mod_cast Iff.rfl

/-- Settles O55: each law is one of the order of the cross products. -/
theorem comparisonLaws : Obligations.ComparisonLaws := by
  unfold Obligations.ComparisonLaws
  intro fs d d₁ d₂ t t' hfs ht
  have hmul : t * fs ≤ t' * fs := Nat.mul_le_mul_right fs ht
  simp only [usLt_iff, usLe_iff, usGt_iff]
  refine ⟨by omega, by omega, by omega, by omega, by omega, by omega, ?_, ?_⟩
  · simp only [toUs_eq, Nat.cast_add, add_mul, add_div]
  · intro h
    have := Nat.mul_pos h hfs
    omega

theorem floorLimit_eq (t fs : Nat) : floorLimit t fs = t * fs / 1000000 := rfl

theorem ceilLimit_eq (t fs : Nat) : ceilLimit t fs = (t * fs + 999999) / 1000000 := rfl

/-- Settles O56: comparison with a quotient is comparison of the products (R93). -/
theorem precomputedLimits : Obligations.PrecomputedLimits := by
  unfold Obligations.PrecomputedLimits
  intro fs d t
  have hceil : ∀ t, usLt fs d t = true ↔ d < ceilLimit t fs := by
    intro t
    rw [usLt_iff, ceilLimit_eq]
    omega
  have hfloor : ∀ t, usLe fs d t = true ↔ d ≤ floorLimit t fs := by
    intro t
    rw [usLe_iff, floorLimit_eq]
    omega
  have habove : ∀ t, usGt fs d t = true ↔ d > floorLimit t fs := by
    intro t
    rw [usGt_iff, floorLimit_eq]
    omega
  exact ⟨hceil t, hfloor t, habove t, hceil _, habove _, hfloor _⟩

/-- Above `N_B` every duration is a reset and neither short nor within a bit cell (R141). -/
theorem classes_above_limitB (h : limitB fs < d) :
    phaseShort fs d = false ∧ phaseReset fs d = true ∧ cellIsBit fs d = false := by
  have h' : 1500 * fs / 1000000 < d := h
  rw [phaseShort_false_iff, phaseReset_iff, cellIsBit_false_iff]
  omega

/-- Settles O57: a duration is kept, or both it and its saturation are above `N_B`. -/
theorem saturationKeepsTheClasses : Obligations.SaturationKeepsTheClasses := by
  unfold Obligations.SaturationKeepsTheClasses
  intro fs d
  rcases Nat.lt_or_ge (limitB fs) d with h | h
  · have hsat : limitB fs < saturate fs d := by
      simp only [saturate]
      omega
    obtain ⟨h₁, h₂, h₃⟩ := classes_above_limitB h
    obtain ⟨h₁', h₂', h₃'⟩ := classes_above_limitB hsat
    simp [h₁, h₂, h₃, h₁', h₂', h₃']
  · have hsat : saturate fs d = d := by
      simp only [saturate]
      omega
    simp [hsat]

/-- Settles O58: each factor is below the power of two its width gives it. -/
theorem productWidthsSuffice : Obligations.ProductWidthsSuffice := by
  unfold Obligations.ProductWidthsSuffice
  intro w v d fs t ht
  have hd : d.toNat < 2 ^ w := d.isLt
  have hfs : fs.toNat < 2 ^ v := fs.isLt
  have hw : 2 ^ (w + 20) = 2 ^ w * 1048576 := pow_add 2 w 20
  have hv : 2 ^ (v + 11) = 2 ^ v * 2048 := pow_add 2 v 11
  constructor
  · simp only [wideDuration, BitVec.toNat_mul, BitVec.truncate_eq_setWidth, BitVec.toNat_setWidth,
      BitVec.toNat_ofNat, hw]
    rw [Nat.mod_eq_of_lt (a := d.toNat) (by omega), Nat.mod_eq_of_lt (a := 1000000) (by omega),
      Nat.mod_eq_of_lt (by omega)]
  · have hprod : t * fs.toNat < 2 ^ v * 2048 := by
      calc t * fs.toNat ≤ 1500 * fs.toNat := Nat.mul_le_mul_right _ ht
        _ < 2 ^ v * 2048 := by omega
    simp only [wideThreshold, BitVec.toNat_mul, BitVec.truncate_eq_setWidth, BitVec.toNat_setWidth,
      BitVec.toNat_ofNat, hv]
    rw [Nat.mod_eq_of_lt (a := t) (by omega), Nat.mod_eq_of_lt (a := fs.toNat) (by omega),
      Nat.mod_eq_of_lt hprod]

/-! The fold of `bit_count` (R150). -/

variable {n : Int}

theorem foldCount_succ (h : -1 ≤ n) : foldCount (n + 1) = succCount (foldCount n) := by
  unfold foldCount succCount
  split_ifs <;> omega

theorem foldCount_eq_neg_one : foldCount n = -1 ↔ n = -1 := by
  unfold foldCount
  split_ifs <;> omega

theorem foldCount_eq_eight : foldCount n = 8 ↔ n = 8 := by
  unfold foldCount
  split_ifs <;> omega

theorem foldCount_emod : foldCount n % 8 = n % 8 := by
  unfold foldCount
  split_ifs <;> omega

/-- Settles O52. -/
theorem foldedCounterLaws : Obligations.FoldedCounterLaws := by
  unfold Obligations.FoldedCounterLaws
  intro n hn
  refine ⟨foldCount_succ hn, foldCount_eq_neg_one.symm, foldCount_eq_eight.symm,
    foldCount_emod.symm, ?_⟩
  unfold foldCount
  split_ifs <;> omega

end Sys2Proof.Machine
end

section
/-! The sampled-level front end (spec/40_timebase_and_sequencer.md section 4, R103). -/

namespace Sys2Proof

/-- The direction of the change to a level. -/
def dirTo (now : Bool) : Dir := if now then .rise else .fall

theorem edgesFrom_cons (n : Nat) (prev level : Bool) (rest : List Bool) :
    edgesFrom n prev (level :: rest) =
      if level = prev then edgesFrom (n + 1) level rest
      else ⟨dirTo level, n⟩ :: edgesFrom (n + 1) level rest := rfl

/-- The events from sample `n` on, `prev` being sample `n - 1`. -/
theorem mem_edgesFrom (levels : List Bool) (n : Nat) (prev : Bool) (e : Edge) :
    e ∈ edgesFrom n prev levels ↔
      ∃ k was now, e.idx = n + k ∧ (prev :: levels)[k]? = some was ∧ levels[k]? = some now ∧
        now ≠ was ∧ e.dir = dirTo now := by
  induction levels generalizing n prev with
  | nil => simp [edgesFrom]
  | cons level rest ih =>
    have hsplit : (∃ k was now, e.idx = n + k ∧ (prev :: level :: rest)[k]? = some was ∧
          (level :: rest)[k]? = some now ∧ now ≠ was ∧ e.dir = dirTo now) ↔
        (e.idx = n ∧ level ≠ prev ∧ e.dir = dirTo level) ∨ e ∈ edgesFrom (n + 1) level rest := by
      rw [ih]
      constructor
      · rintro ⟨_ | k, was, now, hi, hw, hn, hne, hd⟩
        · simp only [List.getElem?_cons_zero, Option.some.injEq] at hw hn
          subst hw hn
          exact .inl ⟨hi, hne, hd⟩
        · exact .inr ⟨k, was, now, by omega, by simpa using hw, by simpa using hn, hne, hd⟩
      · rintro (⟨hi, hne, hd⟩ | ⟨k, was, now, hi, hw, hn, hne, hd⟩)
        · exact ⟨0, prev, level, hi, rfl, rfl, hne, hd⟩
        · exact ⟨k + 1, was, now, by omega, by simpa using hw, by simpa using hn, hne, hd⟩
    rw [hsplit, edgesFrom_cons]
    split_ifs with h
    · simp [h]
    · simp only [List.mem_cons]
      constructor
      · rintro (rfl | hm)
        · exact .inl ⟨rfl, h, rfl⟩
        · exact .inr hm
      · rintro (⟨hi, -, hd⟩ | hm)
        · exact .inl (by cases e; simp_all [dirTo])
        · exact .inr hm

/-- No event from sample `n` on comes before `n`. -/
theorem le_of_mem_edgesFrom {levels : List Bool} {n : Nat} {prev : Bool} {e : Edge}
    (h : e ∈ edgesFrom n prev levels) : n ≤ e.idx := by
  obtain ⟨k, -, -, hk, -⟩ := (mem_edgesFrom levels n prev e).mp h
  omega

theorem pairwise_edgesFrom (levels : List Bool) (n : Nat) (prev : Bool) :
    (edgesFrom n prev levels).Pairwise (fun a b => a.idx < b.idx) := by
  induction levels generalizing n prev with
  | nil => exact .nil
  | cons level rest ih =>
    rw [edgesFrom_cons]
    split_ifs
    · exact ih (n + 1) level
    · refine .cons ?_ (ih (n + 1) level)
      intro b hb
      exact le_of_mem_edgesFrom hb

/-- The directions alternate, beginning with a change away from `prev`. -/
theorem isChain_edgesFrom (levels : List Bool) (n : Nat) (prev : Bool) :
    (dirTo prev :: (edgesFrom n prev levels).map (fun e => e.dir)).IsChain (fun a b => a ≠ b) := by
  induction levels generalizing n prev with
  | nil => exact .singleton _
  | cons level rest ih =>
    rw [edgesFrom_cons]
    split_ifs with h
    · exact h ▸ ih (n + 1) level
    · refine .cons_cons ?_ (ih (n + 1) level)
      cases level <;> cases prev <;> simp_all [dirTo]

/-- Settles O59: sample 0 is the level the changes are counted from. -/
theorem frontEndEventsAreTheLevelChanges : Obligations.FrontEndEventsAreTheLevelChanges := by
  unfold Obligations.FrontEndEventsAreTheLevelChanges
  intro levels
  cases levels with
  | nil => simp [edgesOfLevels]
  | cons level rest =>
    refine ⟨?_, pairwise_edgesFrom rest 1 level, (isChain_edgesFrom rest 1 level).tail⟩
    intro e
    rw [edgesOfLevels, mem_edgesFrom]
    constructor
    · rintro ⟨k, was, now, hi, hw, hn, hne, hd⟩
      refine ⟨by omega, was, now, ?_, ?_, hne, hd⟩
      · simpa [hi] using hw
      · simpa [hi, Nat.add_comm 1 k] using hn
    · rintro ⟨h1, was, now, hw, hn, hne, hd⟩
      refine ⟨e.idx - 1, was, now, by omega, hw, ?_, hne, hd⟩
      obtain ⟨k, hk⟩ : ∃ k, e.idx = k + 1 := ⟨e.idx - 1, by omega⟩
      simpa [hk] using hn

end Sys2Proof
end

section
/-! Placed words (spec/30_encoding.md section 3; the model's log entry 11): every placed situation
selects its operation. -/

namespace Sys2Proof.Machine

/-- A placed low phase is accepted and selects by its length and the counter. -/
theorem fetch_placedLow (s : State) (n : Int) (dl : Nat) :
    fetch (s.placedLow n dl) = .run (selectLow (s.placedLow n dl) (s.lastIdx.getD 0 + dl)) := by
  have hord : (s.placedLow n dl).inOrder (s.lastIdx.getD 0 + dl) = true := by
    rw [inOrder_iff]
    intro p hp
    rw [State.placedLow_lastIdx] at hp
    simp [hp]
  have ha : (s.placedLow n dl).accepts ⟨.rise, s.lastIdx.getD 0 + dl⟩ = true := by
    simp [State.accepts, State.measurable, hord]
  rw [fetch_select (s.placedLow_input n dl) ha, select_low_rise (s.placedLow_phase n dl) rfl]

/-- A placed cell is accepted and selects by its lengths and the counter. -/
theorem fetch_placedHigh (s : State) (n : Int) (dl dh : Nat) :
    fetch (s.placedHigh n dl dh) =
      .run (selectHigh (s.placedHigh n dl dh) (s.lastIdx.getD 0 + dl + dh)) := by
  have ha : (s.placedHigh n dl dh).accepts ⟨.fall, s.lastIdx.getD 0 + dl + dh⟩ = true := by
    simp [State.accepts, State.measurable, State.inOrder]
  rw [fetch_select (s.placedHigh_input n dl dh) ha,
    select_high_fall (s.placedHigh_phase n dl dh) rfl]

/-- A placed event of the sequencer is accepted. -/
theorem fetch_placedSeq (s : State) (p : Phase) (f : FaultCode) (d : Dir)
    (hl : ¬ (p = .low ∧ d = .rise)) (hh : ¬ (p = .high ∧ d = .fall)) :
    fetch (s.placedSeq p f d) = .run (select (s.placedSeq p f d) ⟨d, s.lastIdx.getD 0⟩) := by
  have hord : (s.placedSeq p f d).inOrder (s.lastIdx.getD 0) = true := by
    rw [inOrder_iff]
    intro q hq
    rw [State.placedSeq_lastIdx] at hq
    simp [hq]
  have hf : (s.placedSeq p f d).Faces ⟨d, s.lastIdx.getD 0⟩ s.input := ⟨rfl, hord⟩
  exact fetch_select hf.input (hf.accepts_other hl hh)

/-- The predicates at the placed rate of one sample a microsecond. -/
theorem phaseShort_placed (d : Nat) : phaseShort 1000000 d = decide (d < 100) := by
  rw [Bool.eq_iff_iff, phaseShort_iff, decide_eq_true_iff]
  omega

theorem phaseReset_placed (d : Nat) : phaseReset 1000000 d = decide (1500 < d) := by
  rw [Bool.eq_iff_iff, phaseReset_iff, decide_eq_true_iff]
  omega

theorem cellIsBit_placed (d : Nat) : cellIsBit 1000000 d = decide (d ≤ 130) := by
  rw [Bool.eq_iff_iff, cellIsBit_iff, decide_eq_true_iff]
  omega

/-- The operation a placed low phase of `dl` microseconds selects. -/
theorem selectLow_placed (s : State) (n : Int) (dl : Nat) :
    selectLow (s.placedLow n dl) (s.lastIdx.getD 0 + dl) =
      if dl < 100 then .lowShort else if 1500 < dl then .lowReset
      else if n = 8 then .lowSrq else .lowAttn := by
  have hdl : (s.placedLow n dl).lowSoFar (s.lastIdx.getD 0 + dl) = dl := by
    simp [State.lowSoFar]
  rw [selectLow_eq, hdl]
  simp [phaseShort_placed, phaseReset_placed, srqPosition_iff]

/-- The operation a placed cell of `dl` and `dh` microseconds selects. -/
theorem selectHigh_placed (s : State) (n : Int) (dl dh : Nat) :
    selectHigh (s.placedHigh n dl dh) (s.lastIdx.getD 0 + dl + dh) =
      if dh < 100 then
        if dl + dh ≤ 130 then
          if n = -1 then .highBitstart (decide (dh < dl))
          else if (n + 1) % 8 = 0 then .highBitbyte (decide (dh < dl))
          else .highBit (decide (dh < dl))
        else if dl < 100 then .highStopcell else .highStart
      else if dl < 100 then .highStopidle else .highIdle := by
  have hdl : (s.placedHigh n dl dh).dl = dl := by simp [State.dl]
  have hdh : (s.placedHigh n dl dh).dh (s.lastIdx.getD 0 + dl + dh) = dh := by simp [State.dh]
  have hdt : (s.placedHigh n dl dh).dt (s.lastIdx.getD 0 + dl + dh) = dl + dh := by
    simp [State.dt, Nat.add_assoc]
  have hg : lowLonger dl dh = decide (dh < dl) := by
    rw [Bool.eq_iff_iff, lowLonger_iff, decide_eq_true_iff]
  rw [selectHigh_eq, hdl, hdh, hdt, hg]
  simp [phaseShort_placed, cellIsBit_placed, counterIdle_iff, byteCompletes_iff]

/-- What a placed bit cell with operand `g` selects. -/
theorem fetch_placedCell (s : State) (n : Int) (g : Bool) :
    fetch (s.placedCell n g) = .run (if n = -1 then .highBitstart g
      else if (n + 1) % 8 = 0 then .highBitbyte g else .highBit g) := by
  rw [State.placedCell, fetch_placedHigh, selectHigh_placed]
  cases g <;> simp

/-- Every placed situation selects its operation. -/
theorem fetch_situate (s : State) (i : Instr) : fetch (s.situate i) = .run i := by
  cases i
  case seqSync =>
    rw [State.situate, fetch_placedSeq _ _ _ _ (by decide) (by decide), select_sync_fall rfl rfl]
  case seqSkipSync =>
    rw [State.situate, fetch_placedSeq _ _ _ _ (by decide) (by decide), select_sync_rise rfl rfl]
  case seqSkipLow =>
    rw [State.situate, fetch_placedSeq _ _ _ _ (by decide) (by decide), select_low_fall rfl rfl]
  case seqSkipHigh =>
    rw [State.situate, fetch_placedSeq _ _ _ _ (by decide) (by decide), select_high_rise rfl rfl]
  case seqDead =>
    rw [State.situate, fetch_placedSeq _ _ _ _ (by decide) (by decide), select_fault rfl]
  case lowShort | lowReset | lowAttn | lowSrq =>
    rw [State.situate, fetch_placedLow, selectLow_placed]
    rfl
  case highBit g | highBitstart g =>
    rw [State.situate, fetch_placedCell]
    rfl
  case highBitbyte g =>
    have hb : fetch (s.situate (.highBitbyte g)) = fetch (s.placedCell 7 g) := rfl
    rw [hb, fetch_placedCell]
    rfl
  case highStopcell | highStart | highStopidle | highIdle =>
    rw [State.situate, fetch_placedHigh, selectHigh_placed]
    rfl

/-- Settles O9. -/
theorem placedWordIsWhatTheNextStepRuns : Obligations.PlacedWordIsWhatTheNextStepRuns := by
  unfold Obligations.PlacedWordIsWhatTheNextStepRuns
  intro s nbits w i hw
  have hs : s.withFetchWord nbits w = s.situate i := by simp [State.withFetchWord, hw]
  rw [hs]
  simp only [step, fetch_situate]

end Sys2Proof.Machine
end

section
/-! The value and index invariants (spec/10_state.md section 9): what they say of an event, and that
every step keeps them. -/

namespace Sys2Proof.Machine

variable {s t : State} {e : Edge} {rest : List Input} {i : Instr} {c l : Nat}

/-- Outside FAULT the pass has a rate and no fault. -/
theorem State.Inv.running (h : s.Inv) (hp : s.phase ≠ .fault) : s.fault = .noFault ∧ s.fs ≠ 0 := by
  constructor
  · cases hf : s.fault with
    | noFault => rfl
    | configError => exact absurd (h.faultPhase.mpr hf) hp
  · exact fun hfs => hp (h.faultRate.mpr hfs)

/-- Under the invariants an event in order that ends a low phase finds where it began. -/
theorem State.Inv.lowEnds (h : s.Inv) (hf : s.Faces e rest) (hp : s.phase = .low)
    (hd : e.dir = .rise) : ∃ c, s.LowEnds e rest c := by
  obtain ⟨c, p, hc, hlast, hcp⟩ := optLe_iff.mp (h.low hp)
  have hpe : p ≤ e.idx := inOrder_iff.mp hf.order p hlast
  exact ⟨c, hf, hp, hd, hc, by omega⟩

/-- Under the invariants an event in order that ends a cell finds where its phases began. -/
theorem State.Inv.cellEnds (h : s.Inv) (hf : s.Faces e rest) (hp : s.phase = .high)
    (hd : e.dir = .fall) : ∃ c l, s.CellEnds e rest c l := by
  obtain ⟨hcl, hll⟩ := h.high hp
  obtain ⟨c, l, hc, hl, hle⟩ := optLe_iff.mp hcl
  obtain ⟨l', p, hl', hlast, hlp⟩ := optLe_iff.mp hll
  obtain rfl : l = l' := Option.some.inj (hl.symm.trans hl')
  have hpe : p ≤ e.idx := inOrder_iff.mp hf.order p hlast
  exact ⟨c, l, hf, hp, hd, hc, hl, hle, by omega⟩

/-- Under the invariants the order of the event is all a step requires (R31, R99). -/
theorem State.Inv.accepts (h : s.Inv) (hf : s.Faces e rest) : s.accepts e = true := by
  by_cases hl : s.phase = .low ∧ e.dir = .rise
  · obtain ⟨c, hends⟩ := h.lowEnds hf hl.1 hl.2
    exact hends.accepts
  · by_cases hh : s.phase = .high ∧ e.dir = .fall
    · obtain ⟨c, l, hends⟩ := h.cellEnds hf hh.1 hh.2
      exact hends.accepts
    · exact hf.accepts_other hl hh

/-- An accepted event is in order. -/
theorem faces_of_accepts (hi : s.input = .edge e :: rest) (ha : s.accepts e = true) :
    s.Faces e rest := by
  rw [State.accepts, Bool.and_eq_true] at ha
  exact ⟨hi, ha.1⟩

/-- Settles O11. -/
theorem everyOrderedEventIsDecoded : Obligations.EveryOrderedEventIsDecoded := by
  unfold Obligations.EveryOrderedEventIsDecoded
  intro s e rest hI hf
  exact ⟨_, step_event hf.input (hI.accepts hf), by simp, by simp⟩

/-- How a property is shown to hold after a step from a state with the value invariants: it holds
before it, after a pass start, after an event is consumed, after the first cell begins, after a low
phase ends and after a cell ends. -/
theorem State.Inv.step_induction {P : State → Prop} (hI : s.Inv) (ht : step s = .next t)
    (wait : P s) (start : ∀ fs, P (startPass fs s))
    (skip : ∀ e rest, s.Faces e rest → P (s.consume e rest))
    (sync : ∀ e rest, s.Faces e rest → s.phase = .sync → P ((s.consume e rest).beginCell e.idx))
    (low : ∀ e rest c, s.LowEnds e rest c → P (effect (selectLow s e.idx) e (s.consume e rest)))
    (high : ∀ e rest c l, s.CellEnds e rest c l →
      P (effect (selectHigh s e.idx) e (s.consume e rest))) : P t := by
  rcases step_next ht with ⟨-, rfl⟩ | ⟨fs, rest, -, rfl⟩ | ⟨e, rest, hi, ha, rfl⟩
  · exact wait
  · exact start fs
  · have hf : s.Faces e rest := faces_of_accepts hi ha
    rcases event_cases s e with ⟨hp, hd⟩ | hs | ⟨hp, hd⟩ | ⟨hp, hd⟩
    · rw [select_sync_fall hp hd]
      exact sync e rest hf hp
    · rw [hs.effect_eq]
      exact skip e rest hf
    · rw [select_low_rise hp hd]
      obtain ⟨c, hends⟩ := hI.lowEnds hf hp hd
      exact low e rest c hends
    · rw [select_high_fall hp hd]
      obtain ⟨c, l, hends⟩ := hI.cellEnds hf hp hd
      exact high e rest c l hends

/-! ## Every step keeps the value invariants -/

/-- The invariants of a state in phase LOW. -/
theorem inv_of_low (hp : t.phase = .low) (hf : t.fault = .noFault) (hfs : t.fs ≠ 0)
    (hn : -1 ≤ t.bitCount) (hb : t.bitCount = -1 → t.byte = 0)
    (hc : optLe t.cellS t.lastIdx = true) : t.Inv where
  faultPhase := by simp [hp, hf]
  faultRate := by simp [hp, hfs]
  count := hn
  idleByte := hb
  sync := by simp [hp]
  low _ := hc
  high := by simp [hp]

/-- The invariants of a state in phase HIGH. -/
theorem inv_of_high (hp : t.phase = .high) (hf : t.fault = .noFault) (hfs : t.fs ≠ 0)
    (hn : -1 ≤ t.bitCount) (hb : t.bitCount = -1 → t.byte = 0)
    (hc : optLe t.cellS t.lowE = true) (hl : optLe t.lowE t.lastIdx = true) : t.Inv where
  faultPhase := by simp [hp, hf]
  faultRate := by simp [hp, hfs]
  count := hn
  idleByte := hb
  sync := by simp [hp]
  low := by simp [hp]
  high _ := ⟨hc, hl⟩

/-- No operation takes the counter below `-1` (R143). -/
theorem effect_count (h : -1 ≤ t.bitCount) : -1 ≤ (effect i e t).bitCount := by
  cases i <;> simp [effect, h] <;> omega

/-- Every operation that leaves the counter at `-1` leaves `byte` at 0 (R143). -/
theorem effect_idleByte (h : -1 ≤ t.bitCount) (hb : t.bitCount = -1 → t.byte = 0)
    (hn : (effect i e t).bitCount = -1) : (effect i e t).byte = 0 := by
  cases i
  case highBit g | highBitbyte g =>
    simp only [effect, State.beginCell_bitCount, State.emit_bitCount, State.bitCell_bitCount] at hn
    omega
  case highBitstart g => simp [effect] at hn
  case highStart => simp [effect] at hn
  case lowAttn | lowSrq | highStopidle | highIdle => rfl
  all_goals exact hb hn

theorem inv_startPass (fs : Nat) (s : State) : (startPass fs s).Inv := by
  by_cases hfs : fs = 0
  · subst hfs
    rw [startPass_zero]
    constructor
    case count =>
      simp only [State.raiseConfigError_bitCount, faultBitCount]
      omega
    case idleByte =>
      intro h
      have h0 : Config.faultCount s.freeCount = 0 := by simpa [faultBitCount] using h
      simp [faultByteOf, h0]
    all_goals simp
  · rw [startPass_pos hfs]
    constructor <;> simp [hfs]

/-- A pass starts with an empty output (R190). -/
@[simp] theorem startPass_out (fs : Nat) (s : State) : (startPass fs s).out = [] := by
  unfold startPass
  split_ifs <;> rfl

/-- Consuming an event moves the previous event's index up. -/
theorem State.Faces.optLe_consume (hf : s.Faces e rest) {a : Option Nat}
    (h : optLe a s.lastIdx = true) : optLe a (s.consume e rest).lastIdx = true := by
  obtain ⟨x, p, rfl, hlast, hxp⟩ := optLe_iff.mp h
  have hpe : p ≤ e.idx := inOrder_iff.mp hf.order p hlast
  simp only [State.consume_lastIdx, optLe_some_some]
  omega

theorem State.Inv.consume (hI : s.Inv) (hf : s.Faces e rest) : (s.consume e rest).Inv where
  faultPhase := hI.faultPhase
  faultRate := hI.faultRate
  count := hI.count
  idleByte := hI.idleByte
  sync := hI.sync
  low hp := hf.optLe_consume (hI.low hp)
  high hp := ⟨(hI.high hp).1, hf.optLe_consume (hI.high hp).2⟩

/-- The end of a low phase keeps the value invariants. -/
theorem State.Inv.effect_selectLow (hI : s.Inv) (h : s.LowEnds e rest c) :
    (effect (selectLow s e.idx) e (s.consume e rest)).Inv := by
  obtain ⟨hfault, hfs⟩ := hI.running (by simp [h.phase])
  obtain ⟨hp, hc, hl⟩ := Machine.effect_selectLow s (s.consume e rest) e e.idx
  refine inv_of_high hp (by simpa using hfault) (by simpa using hfs) (effect_count hI.count)
    (effect_idleByte hI.count hI.idleByte) ?_ ?_
  · simp [hc, hl, h.cellS, h.le]
  · simp [hl]

/-- The end of a cell keeps the value invariants. -/
theorem State.Inv.effect_selectHigh (hI : s.Inv) (h : s.CellEnds e rest c l) :
    (effect (selectHigh s e.idx) e (s.consume e rest)).Inv := by
  obtain ⟨hfault, hfs⟩ := hI.running (by simp [h.phase])
  obtain ⟨hp, hc, -⟩ := Machine.effect_selectHigh s (s.consume e rest) e e.idx
  refine inv_of_low hp (by simpa using hfault) (by simpa using hfs) (effect_count hI.count)
    (effect_idleByte hI.count hI.idleByte) ?_
  simp [hc]

/-- The beginning of the first cell keeps the value invariants. -/
theorem State.Inv.beginCell (hI : s.Inv) (hp : s.phase = .sync) :
    ((s.consume e rest).beginCell e.idx).Inv := by
  obtain ⟨hfault, hfs⟩ := hI.running (by simp [hp])
  exact inv_of_low rfl hfault hfs hI.count hI.idleByte (by simp)

/-- Every step keeps the value invariants. -/
theorem State.Inv.step (hI : s.Inv) (ht : step s = .next t) : t.Inv :=
  hI.step_induction ht hI (fun fs => inv_startPass fs s) (fun _ _ hf => hI.consume hf)
    (fun _ _ _ hp => hI.beginCell hp) (fun _ _ _ h => hI.effect_selectLow h)
    (fun _ _ _ _ h => hI.effect_selectHigh h)

/-- Settles O41: one lemma per kind of step. -/
theorem stepKeepsTheValueInvariants : Obligations.StepKeepsTheValueInvariants := by
  unfold Obligations.StepKeepsTheValueInvariants
  exact fun s t hI ht => hI.step ht

end Sys2Proof.Machine
end

section
/-! The framing invariants (spec/30_encoding.md section 4, spec/43_framing_fsm_and_laws.md section
4): what the low-phase step leaves for the high-phase step, the words that are never assembled, and
the registers that have a value where they are read. -/

namespace Sys2Proof.Machine

variable {s t : State} {e : Edge} {rest : List Input} {i : Instr} {c l : Nat}

/-- A bit cell met with a running counter has a short low phase: a mid-length low leaves the counter
idle (R112, R113) and a global-reset low is longer than a bit cell (R146). -/
theorem State.FramingInv.short_of_bitCell (hF : s.FramingInv) (h : s.CellEnds e rest c l)
    (hcell : cellIsBit s.fs (s.dt e.idx) = true) (hn : s.bitCount ≠ -1) :
    phaseShort s.fs s.dl = true := by
  cases hs : phaseShort s.fs s.dl with
  | true => rfl
  | false =>
    cases hr : phaseReset s.fs s.dl with
    | false => exact absurd (hF.midLow h.phase hs hr) hn
    | true =>
      rw [h.dl_eq, phaseReset_iff] at hr
      rw [h.dt_eq, cellIsBit_iff] at hcell
      have := h.le₂
      omega

/-- Where a bit cell ends with a running counter, `byte_s` has a value: on a byte boundary the low
phase captured it. -/
theorem State.FramingInv.byteS_isSome (hF : s.FramingInv) (h : s.CellEnds e rest c l)
    (hcell : cellIsBit s.fs (s.dt e.idx) = true) (hn : s.bitCount ≠ -1) :
    s.byteS.isSome = true := by
  cases hb : onByteBoundary s.bitCount with
  | false => exact hF.inByte (by simp [h.phase]) hn hb
  | true =>
    rw [hF.captured h.phase (hF.short_of_bitCell h hcell hn) hb, h.cellS]
    rfl

/-- Settles O10: each class contradicts the arithmetic of the phases, or the framing invariant. -/
theorem unreachableWordsAreNeverAssembled : Obligations.UnreachableWordsAreNeverAssembled := by
  unfold Obligations.UnreachableWordsAreNeverAssembled
  intro s e rest hI hF hi ha
  have hf := faces_of_accepts hi ha
  constructor
  · intro hp hd
    rw [assemble_low hp hd]
    simp only [Osw.pack_a, Osw.pack_b, phaseShort_iff, phaseReset_iff]
    omega
  · intro hp hd
    obtain ⟨c, l, h⟩ := hI.cellEnds hf hp hd
    obtain ⟨-, hfs⟩ := hI.running (by simp [hp])
    have hc := h.le₁
    have hl := h.le₂
    rw [assemble_high hp hd]
    simp only [Osw.pack_a, Osw.pack_h, Osw.pack_t, Osw.pack_m, Osw.pack_z, Osw.pack_g]
    refine ⟨?_, ?_, ?_, ?_, ?_⟩
    · rw [counterIdle_iff, byteCompletes_false_iff]
      omega
    · rw [h.dl_eq, h.dh_eq, h.dt_eq, phaseShort_false_iff, phaseShort_false_iff, cellIsBit_iff]
      omega
    · rintro ⟨hs, hcell, hn⟩
      rw [hF.short_of_bitCell h hcell (counterIdle_false_iff.mp hn)] at hs
      cases hs
    · rw [h.dl_eq, h.dh_eq, lowLonger_false_iff, phaseShort_false_iff, phaseShort_iff]
      omega
    · rw [h.dl_eq, h.dh_eq, lowLonger_iff, phaseShort_false_iff, phaseShort_iff]
      omega

/-- Settles O43: an operation that reads `cell_s` or `low_e` is selected only where they have
values, and `HIGH.BITBYTE` only in a bit cell with a running counter. -/
theorem noRegisterIsReadBeforeItHasAValue : Obligations.NoRegisterIsReadBeforeItHasAValue := by
  unfold Obligations.NoRegisterIsReadBeforeItHasAValue
  intro s i hI hF hrun
  obtain ⟨e, rest, hi, ha, rfl⟩ := fetch_run hrun
  rw [decode_assemble]
  have hf := faces_of_accepts hi ha
  rcases event_cases s e with ⟨hp, hd⟩ | hs | ⟨hp, hd⟩ | ⟨hp, hd⟩
  · simp [select_sync_fall hp hd]
  · rcases hs with ⟨hp, hd⟩ | hp | ⟨hp, hd⟩ | ⟨hp, hd⟩
    · simp [select_sync_rise hp hd]
    · simp [select_fault hp]
    · simp [select_low_fall hp hd]
    · simp [select_high_rise hp hd]
  · obtain ⟨c, h⟩ := hI.lowEnds hf hp hd
    rw [select_low_rise hp hd, selectLow_eq]
    split_ifs <;> simp [h.cellS]
  · obtain ⟨c, l, h⟩ := hI.cellEnds hf hp hd
    rw [select_high_fall hp hd]
    refine ⟨?_, fun _ => by simp [h.cellS], fun _ => by simp [h.cellS, h.lowE]⟩
    intro g hg
    cases hg ▸ selectsHigh s e.idx with
    | bitbyte _ ht hn _ => exact hF.byteS_isSome h ht hn

/-! ## Every step keeps the framing invariants -/

/-- A counter at 0 stands on a byte boundary. -/
theorem not_mid_byte_zero : ¬ onByteBoundary 0 = false := by decide

/-- Outside phase HIGH only `byte_s` inside a byte matters. -/
theorem framingInv_of_not_high (hp : t.phase ≠ .high)
    (hb : t.phase ≠ .fault → t.bitCount ≠ -1 → onByteBoundary t.bitCount = false →
      t.byteS.isSome = true) : t.FramingInv where
  midLow h := absurd h hp
  captured h := absurd h hp
  inByte := hb

theorem framingInv_startPass (fs : Nat) (s : State) : (startPass fs s).FramingInv := by
  by_cases hfs : fs = 0
  · subst hfs
    rw [startPass_zero]
    exact framingInv_of_not_high (by simp) (by simp)
  · rw [startPass_pos hfs]
    exact framingInv_of_not_high (by simp) (fun _ _ h => absurd h not_mid_byte_zero)

/-- The end of a low phase establishes the framing invariants, class by class. -/
theorem State.FramingInv.effect_selectLow (hF : s.FramingInv) (h : s.LowEnds e rest c) :
    (effect (selectLow s e.idx) e (s.consume e rest)).FramingInv := by
  have hdl : (effect (selectLow s e.idx) e (s.consume e rest)).dl = s.lowSoFar e.idx := by
    obtain ⟨-, hc, hl⟩ := Machine.effect_selectLow s (s.consume e rest) e e.idx
    simp [State.dl, State.readLowE, State.readCellS, hc, hl, State.lowSoFar]
  have hrun : s.phase ≠ .fault := by simp [h.phase]
  have hsel := selectsLow s e.idx
  generalize selectLow s e.idx = i at hdl hsel ⊢
  cases hsel with
  | short hs =>
    constructor
    · intro _ hs'
      rw [hdl, effect_fs, State.consume_fs, hs] at hs'
      cases hs'
    · intro _ _ hb
      have hb' : onByteBoundary s.bitCount = true := hb
      simp [effect, hb', h.cellS]
    · intro _ hn hb
      have hb' : onByteBoundary s.bitCount = false := hb
      simpa [effect, hb'] using hF.inByte hrun hn hb'
  | reset hs hr =>
    constructor
    · intro _ _ hr'
      rw [hdl, effect_fs, State.consume_fs, hr] at hr'
      cases hr'
    · intro _ hs'
      rw [hdl, effect_fs, State.consume_fs, hs] at hs'
      cases hs'
    · intro _ hn hb
      exact hF.inByte hrun hn hb
  | srq hs | attn hs =>
    constructor
    · intro _ _ _
      rfl
    · intro _ hs'
      rw [hdl, effect_fs, State.consume_fs, hs] at hs'
      cases hs'
    · intro _ hn
      exact absurd rfl hn

/-- The end of a cell keeps the framing invariants: `byte_s` is kept, and inside a byte it has a
value. -/
theorem State.FramingInv.effect_selectHigh (hF : s.FramingInv) (h : s.CellEnds e rest c l) :
    (effect (selectHigh s e.idx) e (s.consume e rest)).FramingInv := by
  obtain ⟨hp, -, hbs⟩ := Machine.effect_selectHigh s (s.consume e rest) e e.idx
  refine framingInv_of_not_high (by simp [hp]) ?_
  intro _ hn hb
  rw [hbs]
  have hsel := selectsHigh s e.idx
  generalize selectHigh s e.idx = i at hn hb hsel
  cases hsel with
  | bitbyte _ ht hn' _ | bit _ ht hn' _ => exact hF.byteS_isSome h ht hn'
  | stopcell => exact hF.inByte (by simp [h.phase]) hn hb
  | bitstart | start => exact absurd hb not_mid_byte_zero
  | stopidle | idle => exact absurd rfl hn

/-- Every step keeps the framing invariants. -/
theorem State.FramingInv.step (hF : s.FramingInv) (hI : s.Inv) (ht : step s = .next t) :
    t.FramingInv := by
  refine hI.step_induction ht hF (fun fs => framingInv_startPass fs s) ?_ ?_
    (fun _ _ _ h => hF.effect_selectLow h) (fun _ _ _ _ h => hF.effect_selectHigh h)
  · intro e rest _
    exact ⟨hF.midLow, hF.captured, hF.inByte⟩
  · intro e rest _ hp
    exact framingInv_of_not_high (by simp) (fun _ => hF.inByte (by simp [hp]))

/-- Settles O42: one lemma per kind of step. -/
theorem stepKeepsTheFramingInvariants : Obligations.StepKeepsTheFramingInvariants := by
  unfold Obligations.StepKeepsTheFramingInvariants
  exact fun s t hI hF ht => hF.step hI ht

end Sys2Proof.Machine
end

section
/-! The records of `Byte` (spec/43_framing_fsm_and_laws.md section 4): payloads (R145) and spans
(R148) as invariants, one lemma per state operation. -/

namespace Sys2Proof.Machine

variable {s t u : State} {e : Edge} {rest : List Input} {c l : Nat} {g : Bool}

/-! ## Payloads -/

/-- A position in a list with one more record: the record itself, or a position before it. -/
theorem split_append_singleton {out pre post : List Ann} {a b : Ann}
    (h : out ++ [a] = pre ++ b :: post) :
    (pre = out ∧ b = a) ∨ ∃ post', out = pre ++ b :: post' := by
  rcases List.eq_nil_or_concat post with rfl | ⟨post', x, rfl⟩
  · obtain ⟨rfl, hab⟩ := List.append_inj' h rfl
    exact .inl ⟨rfl, (List.cons.inj hab).1.symm⟩
  · have h' : out ++ [a] = (pre ++ b :: post') ++ [x] := by simpa using h
    exact .inr ⟨post', (List.append_inj' h' rfl).1⟩

/-- One more record that is no `Byte` keeps the payloads right. -/
theorem BytesRight.append_other {out : List Ann} {a : Ann} (h : BytesRight out)
    (ha : a.kind ≠ .byte) : BytesRight (out ++ [a]) := by
  intro pre b post hsplit hb
  rcases split_append_singleton hsplit with ⟨rfl, rfl⟩ | ⟨post', rfl⟩
  · exact absurd hb ha
  · exact h pre b post' rfl hb

/-- One more `Byte` with the eight newest bit values keeps the payloads right. -/
theorem BytesRight.append_byte {out : List Ann} {a : Ann} (h : BytesRight out)
    (ha : ∀ j, j < 8 → newestBit out j = some (a.value.getLsbD j)) : BytesRight (out ++ [a]) := by
  intro pre b post hsplit hb
  rcases split_append_singleton hsplit with ⟨rfl, rfl⟩ | ⟨post', rfl⟩
  · exact ha
  · exact h pre b post' rfl hb

/-- What the payload invariant reads: the counter, `byte` and the output. -/
theorem State.PayloadInv.congr (hP : u.PayloadInv) (hp : u.phase ≠ .fault)
    (hn : t.bitCount = u.bitCount) (hb : t.byte = u.byte) (ho : t.out = u.out) :
    t.PayloadInv where
  recent _ j hj hjn := by
    rw [ho, hb]
    exact hP.recent hp j hj (hn ▸ hjn)
  bytes := ho ▸ hP.bytes

/-- With a counter of at most 0 only the records emitted so far matter. -/
theorem payloadInv_of_count_le (hn : t.bitCount ≤ 0) (h : BytesRight t.out) : t.PayloadInv where
  recent _ j _ hjn := by omega
  bytes := h

/-- A record that is neither `Bit` nor `Byte` keeps the payload invariant. -/
theorem State.PayloadInv.emit (hP : u.PayloadInv) {k : Kind} {a b : Nat} {v : Byte}
    (hbit : k ≠ .bit) (hbyte : k ≠ .byte) : (u.emit k a b v).PayloadInv where
  recent hp j hj hjn := by
    rw [State.emit_out, newestBit, newestBitRecord_append_other _ _ hbit]
    exact hP.recent hp j hj hjn
  bytes := hP.bytes.append_other hbyte

/-- After the shift the new bit is in bit 0. -/
theorem shift_getLsbD_zero (b : Byte) (g : Bool) :
    (((b <<< 1) &&& Config.byteMask) ||| bitOf g).getLsbD 0 = (bitOf g).getLsbD 0 := by
  simp

/-- After the shift every older bit is one place higher. -/
theorem shift_getLsbD_succ (b : Byte) (g : Bool) (j : Nat) (hj : j + 1 < 8) :
    (((b <<< 1) &&& Config.byteMask) ||| bitOf g).getLsbD (j + 1) = b.getLsbD j := by
  have hbit : (bitOf g).getLsbD (j + 1) = false := by
    cases g <;> simp [bitOf, BitVec.getLsbD_one]
  have hmask : Config.byteMask = BitVec.allOnes 8 := rfl
  rw [hmask, BitVec.and_allOnes, BitVec.getLsbD_or, hbit, BitVec.getLsbD_shiftLeft]
  simp [hj]

/-- A bit cell adds its bit to `byte` and to the output alike. -/
theorem State.PayloadInv.bitCell (hP : u.PayloadInv) (hp : u.phase ≠ .fault) :
    (u.bitCell g e).PayloadInv := by
  have hH : (u.emitHigh e).PayloadInv := hP.emit (by decide) (by decide)
  constructor
  · intro _ j hj hjn
    have hout : (u.bitCell g e).out =
        (u.emitHigh e).out ++ [⟨.bit, u.readCellS, e.idx, bitOf g⟩] := rfl
    rw [hout, State.bitCell_byte, newestBit]
    cases j with
    | zero =>
      rw [newestBitRecord_append_bit_zero _ _ rfl, shift_getLsbD_zero]
      rfl
    | succ j =>
      rw [newestBitRecord_append_bit_succ _ _ rfl, shift_getLsbD_succ _ _ _ hj]
      rw [State.bitCell_bitCount] at hjn
      have hjn' : (j : Int) < (u.emitHigh e).bitCount := by
        rw [State.emitHigh_eq, State.emit_bitCount]
        omega
      exact hH.recent hp j (by omega) hjn'
  · exact hH.bytes.append_other (a := ⟨.bit, u.readCellS, e.idx, bitOf g⟩) (by simp)

/-- A `Byte` record of `byte` with eight bits counted is right. -/
theorem State.PayloadInv.emitByte (hP : u.PayloadInv) (hp : u.phase ≠ .fault)
    (hn : 8 ≤ u.bitCount) {a b : Nat} : (u.emit .byte a b u.byte).PayloadInv where
  recent _ j hj hjn := by
    rw [State.emit_out, newestBit, newestBitRecord_append_other _ _ (by simp)]
    exact hP.recent hp j hj hjn
  bytes := hP.bytes.append_byte fun j hj => hP.recent hp j hj (by omega)

theorem payloadInv_startPass (fs : Nat) (s : State) : (startPass fs s).PayloadInv := by
  have hnil : BytesRight (startPass fs s).out := by
    intro pre b post h
    simp at h
  by_cases hfs : fs = 0
  · subst hfs
    exact ⟨fun h => absurd rfl h, hnil⟩
  · refine payloadInv_of_count_le ?_ hnil
    simp [startPass_pos hfs]

/-- The end of a low phase emits no `Bit` and no `Byte`; the counter is kept or idle. -/
theorem State.PayloadInv.effect_selectLow (hP : u.PayloadInv) (hp : u.phase ≠ .fault) (idx : Nat) :
    (effect (selectLow s idx) e u).PayloadInv := by
  rw [selectLow_eq]
  split_ifs
  · exact (hP.emit (k := .low) (by decide) (by decide)).congr hp rfl rfl rfl
  · exact (hP.emit (k := .reset) (by decide) (by decide)).congr hp rfl rfl rfl
  · exact payloadInv_of_count_le (by decide : (-1 : Int) ≤ 0)
      (hP.emit (k := .serviceRequest) (by decide) (by decide)).bytes
  · exact payloadInv_of_count_le (by decide : (-1 : Int) ≤ 0)
      (hP.emit (k := .attention) (by decide) (by decide)).bytes

/-- The end of a cell: a completed byte has eight bits counted. -/
theorem State.PayloadInv.effect_selectHigh (hP : u.PayloadInv) (hp : u.phase ≠ .fault)
    (hsu : s.bitCount = u.bitCount) (hcount : -1 ≤ u.bitCount) (idx : Nat) :
    (effect (selectHigh s idx) e u).PayloadInv := by
  have hsel := selectsHigh s idx
  generalize selectHigh s idx = i at hsel ⊢
  cases hsel with
  | bitstart =>
    have hcell : ((u.bitCell (lowLonger s.dl (s.dh idx)) e).emitCell .start e 0).PayloadInv :=
      (hP.bitCell hp).emit (by decide) (by decide)
    exact payloadInv_of_count_le le_rfl hcell.bytes
  | bitbyte _ _ hn hz =>
    have h8 : 8 ≤ (u.bitCell (lowLonger s.dl (s.dh idx)) e).bitCount := by
      rw [State.bitCell_bitCount]
      omega
    exact ((hP.bitCell hp).emitByte hp h8).congr hp rfl rfl rfl
  | bit => exact (hP.bitCell hp).congr hp rfl rfl rfl
  | stopcell =>
    have hcell : ((u.emitHigh e).emitCell .stop e 0).PayloadInv :=
      (hP.emit (by decide) (by decide)).emit (by decide) (by decide)
    exact hcell.congr hp rfl rfl rfl
  | start =>
    have hcell : ((u.emitHigh e).emit .start u.readLowE e.idx 0).PayloadInv :=
      (hP.emit (by decide) (by decide)).emit (by decide) (by decide)
    exact payloadInv_of_count_le le_rfl hcell.bytes
  | stopidle =>
    exact payloadInv_of_count_le (by decide : (-1 : Int) ≤ 0)
      (hP.emit (k := .stop) (by decide) (by decide)).bytes
  | idle => exact payloadInv_of_count_le (by decide : (-1 : Int) ≤ 0) hP.bytes

/-- Settles O44: one lemma per kind of step. -/
theorem stepKeepsBytePayloadsRight : Obligations.StepKeepsBytePayloadsRight := by
  unfold Obligations.StepKeepsBytePayloadsRight
  intro s t hI hP ht
  have hcons : ∀ e rest, (s.consume e rest).PayloadInv := fun _ _ => ⟨hP.recent, hP.bytes⟩
  refine hI.step_induction ht hP (fun fs => payloadInv_startPass fs s)
    (fun e rest _ => hcons e rest) ?_ ?_ ?_
  · intro e rest _ hp
    exact (hcons e rest).congr (by simp [hp]) rfl rfl rfl
  · intro e rest c h
    exact (hcons e rest).effect_selectLow (by simp [h.phase]) e.idx
  · intro e rest c l h
    exact (hcons e rest).effect_selectHigh (by simp [h.phase]) rfl hI.count e.idx

/-! ## Spans -/

/-- What the span invariant reads: the counter, `byte_s` and the output. -/
theorem State.ByteSpanInv.congr (hB : u.ByteSpanInv) (hp : u.phase ≠ .fault)
    (hn : t.bitCount = u.bitCount) (hb : t.byteS = u.byteS) (ho : t.out = u.out) :
    t.ByteSpanInv where
  first _ m h1 h8 h0 hm := by
    rw [ho, hb]
    exact hB.first hp m h1 h8 (hn ▸ h0) (hn ▸ hm)
  spans := ho ▸ hB.spans

/-- With the counter idle or on a byte boundary only the records emitted so far matter. -/
theorem byteSpanInv_of_boundary (hn : t.bitCount < 0 ∨ t.bitCount % 8 = 0)
    (h : ByteSpansRight t.out) : t.ByteSpanInv where
  first _ m h1 _ h0 hm := by omega
  spans := h

/-- A record that is neither `Bit` nor `Byte` keeps the span invariant. -/
theorem State.ByteSpanInv.emit (hB : u.ByteSpanInv) {k : Kind} {a b : Nat} {v : Byte}
    (hbit : k ≠ .bit) (hbyte : k ≠ .byte) : (u.emit k a b v).ByteSpanInv where
  first hp m h1 h8 h0 hm := by
    rw [State.emit_out, newestBitStart, newestBitRecord_append_other _ _ hbit]
    exact hB.first hp m h1 h8 h0 hm
  spans := hB.spans.append_other _ _ hbyte

/-- A bit cell begun at `byte_s` where the counter stood on a byte boundary is the first of its
byte; any other is one more. -/
theorem State.ByteSpanInv.bitCell (hB : u.ByteSpanInv) (hp : u.phase ≠ .fault)
    (hn : 0 ≤ u.bitCount) (hc : u.cellS = some c)
    (hfirst : u.bitCount % 8 = 0 → u.byteS = u.cellS) : (u.bitCell g e).ByteSpanInv := by
  have hH : (u.emitHigh e).ByteSpanInv := hB.emit (by decide) (by decide)
  have hout : (u.bitCell g e).out = (u.emitHigh e).out ++ [⟨.bit, c, e.idx, bitOf g⟩] := by
    simp [hc]
  constructor
  · intro _ m h1 h8 _ hm
    rw [State.bitCell_bitCount] at hm
    rw [hout, State.bitCell_byteS, newestBitStart]
    obtain ⟨k, rfl⟩ : ∃ k, m = k + 1 := ⟨m - 1, by omega⟩
    cases k with
    | zero =>
      rw [newestBitRecord_append_bit_zero _ _ rfl, hfirst (by omega), hc]
      exact ⟨rfl, rfl⟩
    | succ k =>
      rw [Nat.add_sub_cancel, newestBitRecord_append_bit_succ _ _ rfl]
      exact hH.first hp (k + 1) (by omega) (by omega) hn
        (by rw [State.emitHigh_eq, State.emit_bitCount]; omega)
  · rw [hout]
    exact hH.spans.append_other _ _ (by simp)

/-- The eighth bit cell of a byte and its `Byte` record, from `byte_s` to the end of the cell. -/
theorem State.ByteSpanInv.byteSpansRight (hB : u.ByteSpanInv) (hp : u.phase ≠ .fault)
    (hn : 0 ≤ u.bitCount) (h7 : u.bitCount % 8 = 7) {v : Byte} :
    ByteSpansRight ((u.bitCell g e).out ++ [⟨.byte, u.readByteS, e.idx, v⟩]) := by
  have hH : (u.emitHigh e).ByteSpanInv := hB.emit (by decide) (by decide)
  have hout : (u.bitCell g e).out =
      (u.emitHigh e).out ++ [⟨.bit, u.readCellS, e.idx, bitOf g⟩] := rfl
  obtain ⟨hsome, hstart⟩ := hH.first hp 7 (by omega) (by omega) hn h7
  obtain ⟨b, hb⟩ := Option.isSome_iff_exists.mp hsome
  have hbu : u.byteS = some b := hb
  rw [hout]
  apply ByteSpansRight.append_byte
  · rw [newestBitStart, newestBitRecord_append_bit_succ _ _ rfl, u.readByteS_of_some b hbu]
    exact hstart.trans hb
  · rw [newestBitRecord_append_bit_zero _ _ rfl]
    rfl
  · exact hH.spans.append_other _ _ (by simp)

theorem byteSpanInv_startPass (fs : Nat) (s : State) : (startPass fs s).ByteSpanInv := by
  have hnil : ByteSpansRight (startPass fs s).out := by
    intro pre b post h
    simp at h
  by_cases hfs : fs = 0
  · subst hfs
    exact ⟨fun h => absurd rfl h, hnil⟩
  · refine byteSpanInv_of_boundary ?_ hnil
    simp [startPass_pos hfs]

/-- The end of a low phase: `byte_s` changes only on a byte boundary. -/
theorem State.ByteSpanInv.effect_selectLow (hB : u.ByteSpanInv) (hp : u.phase ≠ .fault)
    (idx : Nat) : (effect (selectLow s idx) e u).ByteSpanInv := by
  rw [selectLow_eq]
  split_ifs
  · have hE : (u.emit .low u.readCellS e.idx 0).ByteSpanInv := hB.emit (by decide) (by decide)
    by_cases hb : onByteBoundary u.bitCount = true
    · exact byteSpanInv_of_boundary (.inr (onByteBoundary_iff.mp hb)) hE.spans
    · exact hE.congr hp rfl (by simp [effect, hb]) rfl
  · exact (hB.emit (k := .reset) (by decide) (by decide)).congr hp rfl rfl rfl
  · exact byteSpanInv_of_boundary (.inl (by decide : (-1 : Int) < 0))
      (hB.emit (k := .serviceRequest) (by decide) (by decide)).spans
  · exact byteSpanInv_of_boundary (.inl (by decide : (-1 : Int) < 0))
      (hB.emit (k := .attention) (by decide) (by decide)).spans

/-- The end of a cell: a running counter in a bit cell on a byte boundary finds `byte_s`
captured. -/
theorem State.ByteSpanInv.effect_selectHigh (hB : s.ByteSpanInv) (hI : s.Inv) (hF : s.FramingInv)
    (h : s.CellEnds e rest c l) :
    (effect (selectHigh s e.idx) e (s.consume e rest)).ByteSpanInv := by
  have hp : (s.consume e rest).phase ≠ .fault := by simp [h.phase]
  have hu : (s.consume e rest).ByteSpanInv := ⟨hB.first, hB.spans⟩
  have hcount := hI.count
  have hsel := selectsHigh s e.idx
  generalize selectHigh s e.idx = i at hsel ⊢
  cases hsel with
  | bitstart =>
    refine byteSpanInv_of_boundary (.inr rfl) ?_
    simpa [effect] using (((hu.spans.append_other _ ⟨.high, s.readLowE, e.idx, 0⟩
      (by simp)).append_other _ ⟨.bit, s.readCellS, e.idx, bitOf (lowLonger s.dl (s.dh e.idx))⟩
      (by simp)).append_other _ ⟨.start, s.readCellS, e.idx, 0⟩ (by simp))
  | bitbyte _ _ hn hz =>
    have h0 : 0 ≤ s.bitCount := by omega
    have h7 : s.bitCount % 8 = 7 := by omega
    exact byteSpanInv_of_boundary (.inr hz) (hu.byteSpansRight hp h0 h7)
  | bit _ ht hn _ =>
    have h0 : 0 ≤ s.bitCount := by omega
    have hfirst : s.bitCount % 8 = 0 → s.byteS = s.cellS := fun hb =>
      hF.captured h.phase (hF.short_of_bitCell h ht hn) (onByteBoundary_iff.mpr hb)
    exact (hu.bitCell hp h0 h.cellS hfirst).congr hp rfl rfl rfl
  | stopcell =>
    have hE : (((s.consume e rest).emitHigh e).emitCell .stop e 0).ByteSpanInv :=
      (hu.emit (by decide) (by decide)).emit (by decide) (by decide)
    exact hE.congr hp rfl rfl rfl
  | start =>
    have hE : (((s.consume e rest).emitHigh e).emit .start s.readLowE e.idx 0).ByteSpanInv :=
      (hu.emit (by decide) (by decide)).emit (by decide) (by decide)
    exact byteSpanInv_of_boundary (.inr rfl) hE.spans
  | stopidle =>
    exact byteSpanInv_of_boundary (.inl (by decide : (-1 : Int) < 0))
      (hu.emit (k := .stop) (by decide) (by decide)).spans
  | idle => exact byteSpanInv_of_boundary (.inl (by decide : (-1 : Int) < 0)) hu.spans

/-- Settles O60: one lemma per kind of step. -/
theorem stepKeepsByteSpansRight : Obligations.StepKeepsByteSpansRight := by
  unfold Obligations.StepKeepsByteSpansRight
  intro s t hI hF hB ht
  have hcons : ∀ e rest, (s.consume e rest).ByteSpanInv := fun _ _ => ⟨hB.first, hB.spans⟩
  refine hI.step_induction ht hB (fun fs => byteSpanInv_startPass fs s)
    (fun e rest _ => hcons e rest) ?_ ?_ ?_
  · intro e rest _ hp
    exact (hcons e rest).congr (by simp [hp]) rfl rfl rfl
  · intro e rest c h
    exact (hcons e rest).effect_selectLow (by simp [h.phase]) e.idx
  · intro e rest c l h
    exact hB.effect_selectHigh hI hF h

end Sys2Proof.Machine
end

section
/-! The order of the output (spec/43_framing_fsm_and_laws.md section 6, R152): where the records of
one operation lie, and that appending them keeps the order. -/

namespace Sys2Proof.Machine

variable {s t : State} {e : Edge} {rest : List Input} {c l : Nat}

/-- Starts rise within each row and ends rise over all records (R152 (a), (b)). -/
structure Ordered (out : List Ann) : Prop where
  rows : ∀ r : AnnRow,
    (out.filter (fun a => a.kind.row = r)).Pairwise (fun a b => a.startSample ≤ b.startSample)
  ends : out.Pairwise (fun a b => a.endSample ≤ b.endSample)

/-- Ordered records behind ordered records are ordered. -/
theorem Ordered.append {out recs : List Ann} (ho : Ordered out) (hr : Ordered recs)
    (hstart : ∀ x ∈ out, ∀ a ∈ recs, x.kind.row = a.kind.row → x.startSample ≤ a.startSample)
    (hend : ∀ x ∈ out, ∀ a ∈ recs, x.endSample ≤ a.endSample) : Ordered (out ++ recs) where
  rows r := by
    rw [List.filter_append, List.pairwise_append]
    refine ⟨ho.rows r, hr.rows r, ?_⟩
    intro x hx a ha
    obtain ⟨hxo, hxr⟩ := List.mem_filter.mp hx
    obtain ⟨har, har'⟩ := List.mem_filter.mp ha
    exact hstart x hxo a har (by simp_all)
  ends := List.pairwise_append.mpr ⟨ho.ends, hr.ends, hend⟩

theorem ordered_singleton (a : Ann) : Ordered [a] where
  rows r := by
    rw [List.filter_singleton]
    cases decide (a.kind.row = r) <;> simp
  ends := List.pairwise_singleton _ a

theorem State.OrderInv.ordered (hO : s.OrderInv) : Ordered s.out := ⟨hO.rows, hO.ends⟩

/-- Where the records of an operation at the end of a cell `(c, l, f)` lie: they are ordered among
themselves, end in the high phase, and start in their row's part of the cell, a `Byte` at `byte_s`
inside a byte. -/
structure LieInCell (s : State) (c l f : Nat) (recs : List Ann) : Prop where
  ordered : Ordered recs
  span : ∀ a ∈ recs, a.startSample ≤ a.endSample ∧ l ≤ a.endSample ∧ a.endSample ≤ f
  cells : ∀ a ∈ recs, a.kind.row = .cells → l ≤ a.startSample
  bits : ∀ a ∈ recs, a.kind.row = .bits → c ≤ a.startSample
  bytes : ∀ a ∈ recs, a.kind = .byte →
    s.byteS = some a.startSample ∧ s.bitCount ≠ -1 ∧ (s.bitCount + 1) % 8 = 0

/-- The records at the end of a cell lie in it. -/
theorem State.CellEnds.records_lieInCell (h : s.CellEnds e rest c l)
    (hB : ∀ b, s.byteS = some b → b ≤ c)
    (hread : cellIsBit s.fs (s.dt e.idx) = true → s.bitCount ≠ -1 → s.byteS.isSome = true) :
    LieInCell s c l e.idx (records (selectHigh s e.idx) e (s.consume e rest)) := by
  have hc : s.readCellS = c := s.readCellS_of_some c h.cellS
  have hl : s.readLowE = l := s.readLowE_of_some l h.lowE
  have h1 := h.le₁
  have h2 := h.le₂
  have hlast : c ≤ e.idx := h1.trans h2
  have hsel := selectsHigh s e.idx
  generalize selectHigh s e.idx = i at hsel ⊢
  cases hsel with
  | bitbyte _ ht hn hz =>
    obtain ⟨b, hb⟩ := Option.isSome_iff_exists.mp (hread ht hn)
    have hr : s.readByteS = b := s.readByteS_of_some b hb
    have hbl : b ≤ e.idx := (hB b hb).trans hlast
    refine ⟨⟨fun r => ?_, ?_⟩, ?_, ?_, ?_, ?_⟩
    · cases r <;> simp [records, Kind.row]
    · simp [records]
    · simp [records, hc, hl, h2, hlast, hr, hbl]
    · simp [records, Kind.row, hl]
    · simp [records, Kind.row, hc]
    · simp [records, hb, hn, hz]
  | bitstart | bit | stopcell | start | stopidle | idle =>
    refine ⟨⟨fun r => ?_, ?_⟩, ?_, ?_, ?_, ?_⟩
    · cases r <;> simp [records, Kind.row, hc, hl]
    · simp [records]
    · simp [records, hc, hl, h1, h2, hlast]
    · simp [records, Kind.row, hl]
    · simp [records, Kind.row, hc, hl, h1]
    · simp [records]

/-! ## Every step keeps the order -/

theorem orderInv_startPass (fs : Nat) (s : State) : (startPass fs s).OrderInv := by
  have hp : (startPass fs s).phase = .sync ∨ (startPass fs s).phase = .fault := by
    unfold startPass
    split_ifs <;> simp
  constructor
  case byteBeforeCell =>
    intro h
    rcases hp with hp | hp <;> simp [hp] at h
  all_goals simp

/-- Consuming an event keeps the order: only the bound of the last event moves. -/
theorem State.OrderInv.consume (hO : s.OrderInv) (hf : s.Faces e rest) :
    (s.consume e rest).OrderInv :=
  { hO with causal := fun a ha => ⟨(hO.causal a ha).1, hf.optLe_consume (hO.causal a ha).2⟩ }

/-- Every record emitted so far ends at or before an event in order. -/
theorem State.OrderInv.end_le (hO : s.OrderInv) (hf : s.Faces e rest) {a : Ann} (ha : a ∈ s.out) :
    a.endSample ≤ e.idx := by
  simpa using hf.optLe_consume (hO.causal a ha).2

/-- The beginning of the first cell keeps the order. -/
theorem State.OrderInv.beginCell (hO : s.OrderInv) (hI : s.Inv) (hf : s.Faces e rest)
    (hp : s.phase = .sync) : ((s.consume e rest).beginCell e.idx).OrderInv where
  rows := hO.rows
  ends := hO.ends
  causal := (hO.consume hf).causal
  beforeCell _ a ha := by simpa using hO.end_le hf ha
  beforeHigh h := by simp at h
  framingBeforeCell h := by simp at h
  byteBeforeCell _ b hb := by
    obtain ⟨-, -, hnone, -⟩ := hI.sync hp
    simp [hnone] at hb
  bytesBefore _ := hO.bytesBefore (by simp [hp])

/-- The record of a low phase `(c, idx)` comes after all others, and what the later fields of the
order invariant need of `byte_s`. -/
theorem orderInv_of_low (hO : s.OrderInv) (h : s.LowEnds e rest c) {k : Kind}
    (hk : k.row = .cells) (hp : t.phase = .high) (hc : t.cellS = s.cellS) (hl : t.lowE = some e.idx)
    (hlast : t.lastIdx = some e.idx) (hout : t.out = s.out ++ [⟨k, c, e.idx, 0⟩])
    (hbyte : ∀ b, t.byteS = some b → b ≤ c)
    (hn : t.bitCount ≠ -1 → onByteBoundary t.bitCount = false →
      t.byteS = s.byteS ∧ t.bitCount = s.bitCount) : t.OrderInv := by
  have hbefore : ∀ x ∈ s.out, x.endSample ≤ c := fun x hx => by
    simpa [h.cellS] using hO.beforeCell h.phase x hx
  have hend : ∀ x ∈ t.out, x.endSample ≤ e.idx := by
    rw [hout]
    intro x hx
    rcases List.mem_append.mp hx with hx | hx
    · exact (hbefore x hx).trans h.le
    · rw [List.mem_singleton.mp hx]
  have hord : Ordered t.out := by
    rw [hout]
    refine hO.ordered.append (ordered_singleton _) ?_ ?_
    · intro x hx a ha _
      rw [List.mem_singleton.mp ha]
      exact (hO.causal x hx).1.trans (hbefore x hx)
    · intro x hx a ha
      rw [List.mem_singleton.mp ha]
      exact (hbefore x hx).trans h.le
  have hmem : ∀ x ∈ t.out, x.kind.row ≠ .cells → x ∈ s.out := by
    rw [hout]
    intro x hx hr
    rcases List.mem_append.mp hx with hx | hx
    · exact hx
    · rw [List.mem_singleton.mp hx] at hr
      exact absurd hk hr
  constructor
  case rows => exact hord.rows
  case ends => exact hord.ends
  case causal =>
    intro x hx
    refine ⟨?_, by simpa [hlast] using hend x hx⟩
    rw [hout] at hx
    rcases List.mem_append.mp hx with hx | hx
    · exact (hO.causal x hx).1
    · rw [List.mem_singleton.mp hx]
      exact h.le
  case beforeCell => simp [hp]
  case beforeHigh =>
    intro _ x hx
    simpa [hl] using hend x hx
  case framingBeforeCell =>
    intro _ x hx hr
    simpa [hc, h.cellS] using hbefore x (hmem x hx hr)
  case byteBeforeCell =>
    intro _ b hb
    simpa [hc, h.cellS] using hbyte b hb
  case bytesBefore =>
    intro _ hn1 hb x hx hx'
    obtain ⟨hbs, hbc⟩ := hn hn1 hb
    rw [hbs]
    exact hO.bytesBefore (by simp [h.phase]) (hbc ▸ hn1) (hbc ▸ hb) x
      (hmem x hx (by simp [hx', Kind.row])) hx'

/-- The end of a low phase keeps the order. -/
theorem State.OrderInv.effect_selectLow (hO : s.OrderInv) (h : s.LowEnds e rest c) :
    (effect (selectLow s e.idx) e (s.consume e rest)).OrderInv := by
  have hbs : ∀ b, s.byteS = some b → b ≤ c := fun b hb => by
    simpa [h.cellS] using hO.byteBeforeCell (.inl h.phase) b hb
  rw [selectLow_eq]
  split_ifs
  · refine orderInv_of_low hO h (k := .low) rfl rfl rfl rfl rfl (by simp [effect, h.cellS]) ?_ ?_
    · intro b hb
      simp only [effect, State.endLow_byteS, State.captureByteS_byteS] at hb
      split_ifs at hb
      · simp [h.cellS] at hb
        omega
      · exact hbs b hb
    · intro _ hb
      have hb' : onByteBoundary s.bitCount = false := hb
      simp [effect, hb']
  · exact orderInv_of_low hO h (k := .reset) rfl rfl rfl rfl rfl (by simp [effect, h.cellS]) hbs
      (fun _ _ => ⟨rfl, rfl⟩)
  · exact orderInv_of_low hO h (k := .serviceRequest) rfl rfl rfl rfl rfl
      (by simp [effect, h.cellS]) hbs (fun hn => absurd rfl hn)
  · exact orderInv_of_low hO h (k := .attention) rfl rfl rfl rfl rfl
      (by simp [effect, h.cellS]) hbs (fun hn => absurd rfl hn)

/-- Inside a byte, after a high-phase operation, the `Byte` records of before end at `byte_s`. -/
theorem State.OrderInv.bytesBefore_effect (hO : s.OrderInv) (hF : s.FramingInv)
    (h : s.CellEnds e rest c l)
    (hn : (effect (selectHigh s e.idx) e (s.consume e rest)).bitCount ≠ -1)
    (hb : onByteBoundary (effect (selectHigh s e.idx) e (s.consume e rest)).bitCount = false) :
    (∀ a ∈ records (selectHigh s e.idx) e (s.consume e rest), a.kind ≠ .byte) ∧
      ∀ x ∈ s.out, x.kind = .byte → optLe (some x.endSample) s.byteS = true := by
  have hrun : s.phase ≠ .fault := by simp [h.phase]
  have hsel := selectsHigh s e.idx
  generalize selectHigh s e.idx = i at hn hb hsel ⊢
  cases hsel with
  | bitbyte _ _ _ hz =>
    have hb' : onByteBoundary (s.bitCount + 1) = false := hb
    exact absurd hz (onByteBoundary_false_iff.mp hb')
  | bit _ ht hn' _ =>
    refine ⟨by simp [records], fun x hx hxb => ?_⟩
    cases hb0 : onByteBoundary s.bitCount with
    | false => exact hO.bytesBefore hrun hn' hb0 x hx hxb
    | true =>
      rw [hF.captured h.phase (hF.short_of_bitCell h ht hn') hb0]
      exact hO.framingBeforeCell h.phase x hx (by simp [hxb, Kind.row])
  | stopcell => exact ⟨by simp [records], fun x hx hxb => hO.bytesBefore hrun hn hb x hx hxb⟩
  | bitstart | start => exact absurd hb not_mid_byte_zero
  | stopidle | idle => exact absurd rfl hn

/-- The end of a cell keeps the order. -/
theorem State.OrderInv.effect_selectHigh (hO : s.OrderInv) (hF : s.FramingInv)
    (h : s.CellEnds e rest c l) :
    (effect (selectHigh s e.idx) e (s.consume e rest)).OrderInv := by
  obtain ⟨hp, hc, hbs⟩ := Machine.effect_selectHigh s (s.consume e rest) e e.idx
  have hbyte : ∀ b, s.byteS = some b → b ≤ c := fun b hb => by
    simpa [h.cellS] using hO.byteBeforeCell (.inr h.phase) b hb
  have hrecs := h.records_lieInCell hbyte fun hcell hn => hF.byteS_isSome h hcell hn
  have hhigh : ∀ x ∈ s.out, x.endSample ≤ l := fun x hx => by
    simpa [h.lowE] using hO.beforeHigh h.phase x hx
  have hframe : ∀ x ∈ s.out, x.kind.row ≠ .cells → x.endSample ≤ c := fun x hx hr => by
    simpa [h.cellS] using hO.framingBeforeCell h.phase x hx hr
  have hend : ∀ x ∈ (effect (selectHigh s e.idx) e (s.consume e rest)).out,
      x.endSample ≤ e.idx := by
    intro x hx
    rw [effect_out] at hx
    rcases List.mem_append.mp hx with hx | hx
    · exact (hhigh x hx).trans h.le₂
    · exact (hrecs.span x hx).2.2
  have hord : Ordered (effect (selectHigh s e.idx) e (s.consume e rest)).out := by
    rw [effect_out]
    refine hO.ordered.append hrecs.ordered ?_ ?_
    · intro x hx a ha hrow
      have hx1 := (hO.causal x hx).1
      cases hr : a.kind.row with
      | cells => exact (hx1.trans (hhigh x hx)).trans (hrecs.cells a ha hr)
      | bits =>
        exact (hx1.trans (hframe x hx (by simp [hrow, hr]))).trans (hrecs.bits a ha hr)
      | bytes =>
        have hak : a.kind = .byte := by
          cases hk : a.kind <;> simp_all [Kind.row]
        have hxk : x.kind = .byte := by
          cases hk : x.kind <;> simp_all [Kind.row]
        obtain ⟨hsome, hn, hz⟩ := hrecs.bytes a ha hak
        have hxb := hO.bytesBefore (by simp [h.phase]) hn
          (onByteBoundary_false_iff.mpr (by omega)) x hx hxk
        rw [hsome, optLe_some_some] at hxb
        exact hx1.trans hxb
    · intro x hx a ha
      exact (hhigh x hx).trans (hrecs.span a ha).2.1
  constructor
  case rows => exact hord.rows
  case ends => exact hord.ends
  case causal =>
    intro x hx
    refine ⟨?_, by simpa using hend x hx⟩
    rw [effect_out] at hx
    rcases List.mem_append.mp hx with hx | hx
    · exact (hO.causal x hx).1
    · exact (hrecs.span x hx).1
  case beforeCell =>
    intro _ x hx
    simpa [hc] using hend x hx
  case beforeHigh => simp [hp]
  case framingBeforeCell => simp [hp]
  case byteBeforeCell =>
    intro _ b hb
    rw [hbs] at hb
    simpa [hc] using ((hbyte b hb).trans h.le₁).trans h.le₂
  case bytesBefore =>
    intro _ hn hb x hx hxk
    obtain ⟨hnew, hold⟩ := hO.bytesBefore_effect hF h hn hb
    rw [hbs]
    rw [effect_out] at hx
    rcases List.mem_append.mp hx with hx | hx
    · exact hold x hx hxk
    · exact absurd hxk (hnew x hx)

/-- Settles O45: one lemma per kind of step. -/
theorem stepKeepsTheOutputOrder : Obligations.StepKeepsTheOutputOrder := by
  unfold Obligations.StepKeepsTheOutputOrder
  intro s t hI hF hO ht
  exact hI.step_induction ht hO (fun fs => orderInv_startPass fs s)
    (fun _ _ hf => hO.consume hf) (fun _ _ hf hp => hO.beginCell hI hf hp)
    (fun _ _ _ h => hO.effect_selectLow h) (fun _ _ _ _ h => hO.effect_selectHigh hF h)

/-- Settles O40: every invariant holds after a pass start, and the state after reset is one. -/
theorem resetMeetsTheInvariants : Obligations.ResetMeetsTheInvariants := by
  unfold Obligations.ResetMeetsTheInvariants
  have hreset : State.reset = startPass Config.resetFs State.reset := by decide
  rw [hreset]
  exact ⟨inv_startPass _ _, framingInv_startPass _ _, payloadInv_startPass _ _,
    byteSpanInv_startPass _ _, orderInv_startPass _ _⟩

end Sys2Proof.Machine
end

section
/-! The framing machine per cell (spec/43_framing_fsm_and_laws.md section 2, R151): the low-phase
step, then the high-phase step by the class of the low phase. -/

namespace Sys2Proof.Machine

variable {s t v : State} {e : Edge} {rest : List Input} {c l r f : Nat}

/-- A step that ends a cell, as the effect of the selected operation. -/
theorem State.CellEnds.step_next (h : v.CellEnds e rest c l) :
    step v = .next (effect (selectHigh v e.idx) e (v.consume e rest)) := by
  rw [step_event h.faces.input h.accepts, select_high_fall h.phase h.dir]

/-- A step that ends a low phase, as the effect of the selected operation. -/
theorem State.LowEnds.step_next (h : s.LowEnds e rest c) :
    step s = .next (effect (selectLow s e.idx) e (s.consume e rest)) := by
  rw [step_event h.faces.input h.accepts, select_low_rise h.phase h.dir]

/-- The value of a bit cell is the operand `G` of its operation (R66). -/
theorem State.CellEnds.bitOf_eq (h : v.CellEnds e rest c l) :
    bitOf (lowLonger v.dl (v.dh e.idx)) = cellBit c l e.idx := by
  simp [bitOf, cellBit, lowLonger_iff, h.dl_eq, h.dh_eq]

/-! The class of a high phase and its cell, by the predicates of the step that ends them. -/

theorem State.CellEnds.highClass_bit (h : v.CellEnds e rest c l)
    (hh : phaseShort v.fs (v.dh e.idx) = true) (ht : cellIsBit v.fs (v.dt e.idx) = true) :
    highClass v.fs (e.idx - l) (e.idx - c) = .bit := by
  rw [highClass, ← h.dh_eq, ← h.dt_eq, if_pos hh, if_pos ht]

theorem State.CellEnds.highClass_stretched (h : v.CellEnds e rest c l)
    (hh : phaseShort v.fs (v.dh e.idx) = true) (ht : cellIsBit v.fs (v.dt e.idx) = false) :
    highClass v.fs (e.idx - l) (e.idx - c) = .stretched := by
  rw [highClass, ← h.dh_eq, ← h.dt_eq, if_pos hh, if_neg (by simp [ht])]

theorem State.CellEnds.highClass_long (h : v.CellEnds e rest c l)
    (hh : phaseShort v.fs (v.dh e.idx) = false) :
    highClass v.fs (e.idx - l) (e.idx - c) = .long := by
  rw [highClass, ← h.dh_eq, if_neg (by simp [hh])]

/-- A cell with a short low phase: rows Sb, Ss and Sl of R151. -/
theorem State.CellEnds.cell_of_short (h : v.CellEnds e rest c l)
    (hs : phaseShort v.fs (l - c) = true) :
    (effect (selectHigh v e.idx) e (v.consume e rest)).bitCount =
        cellCount v.bitCount .short (highClass v.fs (e.idx - l) (e.idx - c)) ∧
      records (selectHigh v e.idx) e (v.consume e rest) =
        highRecord l e.idx (highClass v.fs (e.idx - l) (e.idx - c)) ++
          framingRecords v c l e.idx .short (highClass v.fs (e.idx - l) (e.idx - c)) := by
  have hc : v.readCellS = c := v.readCellS_of_some c h.cellS
  have hl : v.readLowE = l := v.readLowE_of_some l h.lowE
  have hbit := h.bitOf_eq
  rw [← h.dl_eq] at hs
  have hsel := selectsHigh v e.idx
  generalize selectHigh v e.idx = i at hsel ⊢
  cases hsel with
  | bitstart hh ht hn =>
    rw [h.highClass_bit hh ht]
    simp [effect, records, cellCount, highRecord, framingRecords, hc, hl, hbit, hn]
  | bitbyte hh ht hn hz =>
    have h7 : v.bitCount % 8 = 7 := by omega
    rw [h.highClass_bit hh ht]
    simp [effect, records, cellCount, highRecord, framingRecords, hc, hl, hbit, hn, h7]
  | bit hh ht hn hz =>
    have h7 : v.bitCount % 8 ≠ 7 := by omega
    rw [h.highClass_bit hh ht]
    simp [effect, records, cellCount, highRecord, framingRecords, hc, hl, hbit, hn, h7]
  | stopcell hh ht =>
    rw [h.highClass_stretched hh ht]
    simp [effect, records, cellCount, highRecord, framingRecords, hc, hl]
  | stopidle hh =>
    rw [h.highClass_long hh]
    simp [effect, records, cellCount, highRecord, framingRecords, hc, hl]
  | start _ _ hs' | idle _ hs' => simp [hs] at hs'

/-- A cell with a mid-length low phase: rows Mb, Ms and Ml of R151. In row Mb the low phase is the
longer one, so the bit is 0. -/
theorem State.CellEnds.cell_of_mid (h : v.CellEnds e rest c l)
    (hs : phaseShort v.fs (l - c) = false) (hn : v.bitCount = -1) (n : Int) :
    (effect (selectHigh v e.idx) e (v.consume e rest)).bitCount =
        cellCount n .mid (highClass v.fs (e.idx - l) (e.idx - c)) ∧
      records (selectHigh v e.idx) e (v.consume e rest) =
        highRecord l e.idx (highClass v.fs (e.idx - l) (e.idx - c)) ++
          framingRecords s c l e.idx .mid (highClass v.fs (e.idx - l) (e.idx - c)) := by
  have hc : v.readCellS = c := v.readCellS_of_some c h.cellS
  have hl : v.readLowE = l := v.readLowE_of_some l h.lowE
  rw [← h.dl_eq] at hs
  have hsel := selectsHigh v e.idx
  generalize selectHigh v e.idx = i at hsel ⊢
  cases hsel with
  | bitstart hh ht =>
    have hlonger : lowLonger v.dl (v.dh e.idx) = true := by
      rw [phaseShort_false_iff] at hs
      rw [phaseShort_iff] at hh
      rw [lowLonger_iff]
      omega
    rw [h.highClass_bit hh ht, hlonger]
    simp [effect, records, cellCount, highRecord, framingRecords, hc, hl, bitOf]
  | start hh ht =>
    rw [h.highClass_stretched hh ht]
    simp [effect, records, cellCount, highRecord, framingRecords, hl]
  | idle hh =>
    rw [h.highClass_long hh]
    simp [effect, records, cellCount, highRecord, framingRecords]
  | bitbyte _ _ hn' | bit _ _ hn' => exact absurd hn hn'
  | stopcell _ _ hs' | stopidle _ hs' => simp [hs] at hs'

/-- A global-reset cell is longer than a bit cell (R146). -/
theorem highClass_ne_bit_of_reset {fs : Nat} (hr : phaseReset fs (l - c) = true) (hf : l ≤ f) :
    highClass fs (f - l) (f - c) ≠ .bit := by
  have ht : cellIsBit fs (f - c) = false := by
    rw [phaseReset_iff] at hr
    rw [cellIsBit_false_iff]
    omega
  rw [highClass, ht]
  cases phaseShort fs (f - l) <;> decide

/-- A cell with a global reset: rows Rs and Rl of R151. -/
theorem State.CellEnds.cell_of_reset (h : v.CellEnds e rest c l)
    (hs : phaseShort v.fs (l - c) = false) (hr : phaseReset v.fs (l - c) = true) (n : Int) :
    (effect (selectHigh v e.idx) e (v.consume e rest)).bitCount =
        cellCount n .reset (highClass v.fs (e.idx - l) (e.idx - c)) ∧
      records (selectHigh v e.idx) e (v.consume e rest) =
        highRecord l e.idx (highClass v.fs (e.idx - l) (e.idx - c)) ++
          framingRecords s c l e.idx .reset (highClass v.fs (e.idx - l) (e.idx - c)) := by
  have hl : v.readLowE = l := v.readLowE_of_some l h.lowE
  rw [← h.dl_eq] at hs
  have hsel := selectsHigh v e.idx
  generalize selectHigh v e.idx = i at hsel ⊢
  cases hsel with
  | start hh ht =>
    rw [h.highClass_stretched hh ht]
    simp [effect, records, cellCount, highRecord, framingRecords, hl]
  | idle hh =>
    rw [h.highClass_long hh]
    simp [effect, records, cellCount, highRecord, framingRecords]
  | bitstart hh ht | bitbyte hh ht | bit hh ht =>
    exact absurd (h.highClass_bit hh ht) (highClass_ne_bit_of_reset hr h.le₂)
  | stopcell _ _ hs' | stopidle _ hs' => simp [hs] at hs'

/-- The records of the framing rows depend on the counter, on `byte`, and on `byte_s` only where a
byte completes. -/
theorem framingRecords_congr (hn : t.bitCount = s.bitCount) (hb : t.byte = s.byte)
    (hs : s.bitCount % 8 = 7 → t.readByteS = s.readByteS) (low : LowClass) (high : HighClass) :
    framingRecords t c l f low high = framingRecords s c l f low high := by
  cases low <;> cases high
  case short.bit =>
    simp only [framingRecords, hn, hb]
    split_ifs with _ h7
    · rfl
    · rw [hs h7]
    · rfl
  all_goals rfl

/-- What the high-phase step reads of the state `t` that a low phase leaves, from the state `s`
before the cell. -/
def AfterLow (s t : State) : LowClass → Prop
  | .short => t.bitCount = s.bitCount ∧ t.byte = s.byte ∧
      (s.bitCount % 8 = 7 → t.readByteS = s.readByteS)
  | .mid => t.bitCount = -1
  | .reset => True

/-- The high-phase step of a cell, by the class of the low phase before it (R151). -/
theorem State.CellEnds.cell (h : t.CellEnds e rest c l) (hfs : t.fs = s.fs)
    (hlow : AfterLow s t (lowClass s.fs (l - c))) :
    (effect (selectHigh t e.idx) e (t.consume e rest)).bitCount =
        cellCount s.bitCount (lowClass s.fs (l - c)) (highClass s.fs (e.idx - l) (e.idx - c)) ∧
      records (selectHigh t e.idx) e (t.consume e rest) =
        highRecord l e.idx (highClass s.fs (e.idx - l) (e.idx - c)) ++
          framingRecords s c l e.idx (lowClass s.fs (l - c))
            (highClass s.fs (e.idx - l) (e.idx - c)) := by
  rw [← hfs] at hlow ⊢
  cases hs : phaseShort t.fs (l - c) with
  | true =>
    have hcls : lowClass t.fs (l - c) = .short := by simp [lowClass, hs]
    rw [hcls] at hlow ⊢
    obtain ⟨hn, hb, hbs⟩ := hlow
    rw [← hn, ← framingRecords_congr hn hb hbs]
    exact h.cell_of_short hs
  | false =>
    cases hr : phaseReset t.fs (l - c) with
    | true =>
      have hcls : lowClass t.fs (l - c) = .reset := by simp [lowClass, hs, hr]
      rw [hcls]
      exact h.cell_of_reset hs hr s.bitCount
    | false =>
      have hcls : lowClass t.fs (l - c) = .mid := by simp [lowClass, hs, hr]
      rw [hcls] at hlow ⊢
      exact h.cell_of_mid hs hlow s.bitCount

/-- The low-phase step of a cell (R151): its record, and the state it leaves to the high-phase
step. -/
theorem State.LowEnds.cell (h : s.LowEnds e rest c) :
    AfterLow s (effect (selectLow s e.idx) e (s.consume e rest)) (lowClass s.fs (e.idx - c)) ∧
      records (selectLow s e.idx) e (s.consume e rest) =
        [lowRecord s.bitCount c e.idx (lowClass s.fs (e.idx - c))] := by
  have hc : s.readCellS = c := s.readCellS_of_some c h.cellS
  rw [← h.lowSoFar_eq]
  have hsel := selectsLow s e.idx
  generalize selectLow s e.idx = i at hsel ⊢
  cases hsel with
  | short hs =>
    have hcls : lowClass s.fs (s.lowSoFar e.idx) = .short := by simp [lowClass, hs]
    rw [hcls]
    refine ⟨⟨rfl, rfl, fun h7 => ?_⟩, by simp [records, lowRecord, hc]⟩
    have hb : onByteBoundary s.bitCount = false := onByteBoundary_false_iff.mpr (by omega)
    simp [effect, State.readByteS, hb]
  | reset hs hr =>
    have hcls : lowClass s.fs (s.lowSoFar e.idx) = .reset := by simp [lowClass, hs, hr]
    rw [hcls]
    exact ⟨trivial, by simp [records, lowRecord, hc]⟩
  | srq hs hr hn | attn hs hr hn =>
    have hcls : lowClass s.fs (s.lowSoFar e.idx) = .mid := by simp [lowClass, hs, hr]
    rw [hcls]
    exact ⟨rfl, by simp [records, lowRecord, hc, hn]⟩

/-- The state after a low-phase operation faces the end of its cell. -/
theorem State.LowEnds.cellEnds_effect {e' : Edge} (h : s.LowEnds e (.edge e' :: rest) c)
    (hd : e'.dir = .fall) (hle : e.idx ≤ e'.idx) :
    (effect (selectLow s e.idx) e (s.consume e (.edge e' :: rest))).CellEnds e' rest c e.idx := by
  obtain ⟨hp, hc, hl⟩ := effect_selectLow s (s.consume e (.edge e' :: rest)) e e.idx
  refine ⟨⟨effect_input, ?_⟩, hp, hd, hc.trans h.cellS, hl, h.le, hle⟩
  simp [State.inOrder, hle]

/-- A global-reset cell is never a bit cell (R146). -/
theorem not_reset_bit {fs : Nat} (hf : l ≤ f) :
    ¬ (lowClass fs (l - c) = .reset ∧ highClass fs (f - l) (f - c) = .bit) := by
  rintro ⟨hlow, hhigh⟩
  refine highClass_ne_bit_of_reset ?_ hf hhigh
  unfold lowClass at hlow
  split_ifs at hlow with _ hr
  exact hr

/-- The two steps of a cell, for its two events. -/
theorem State.LowEnds.two_steps {e' : Edge} (h : s.LowEnds e (.edge e' :: rest) c)
    (hd : e'.dir = .fall) (hle : e.idx ≤ e'.idx) :
    ∃ t u, step s = .next t ∧ step t = .next u ∧
      u.bitCount = cellCount s.bitCount (lowClass s.fs (e.idx - c))
        (highClass s.fs (e'.idx - e.idx) (e'.idx - c)) ∧
      u.out = s.out ++ cellRecords s c e.idx e'.idx (lowClass s.fs (e.idx - c))
        (highClass s.fs (e'.idx - e.idx) (e'.idx - c)) := by
  have hcell := h.cellEnds_effect hd hle
  obtain ⟨hafter, hlow⟩ := h.cell
  have hfs : (effect (selectLow s e.idx) e (s.consume e (.edge e' :: rest))).fs = s.fs := by
    rw [effect_fs, State.consume_fs]
  obtain ⟨hcount, hhigh⟩ := hcell.cell hfs hafter
  refine ⟨_, _, h.step_next, hcell.step_next, hcount, ?_⟩
  rw [effect_out, hhigh, State.consume_out, effect_out, hlow, State.consume_out,
    List.append_assoc, List.singleton_append, cellRecords]

/-- Settles O39: the low-phase step by `LowEnds.cell`, the high-phase step by `CellEnds.cell`. -/
theorem framingMachinePerCell : Obligations.FramingMachinePerCell := by
  unfold Obligations.FramingMachinePerCell
  intro s rest c r f hI hp hc hord hrf hi
  obtain ⟨c', h⟩ := hI.lowEnds ⟨hi, hord⟩ hp rfl
  obtain rfl : c' = c := Option.some.inj (h.cellS.symm.trans hc)
  obtain ⟨t, u, ht, hu, hcount, hout⟩ := h.two_steps rfl hrf
  exact ⟨t, u, ht, hu, hcount, hout, not_reset_bit hrf⟩

end Sys2Proof.Machine
end

section
/-! The index symmetries (spec/43_framing_fsm_and_laws.md section 7, R155): a rescaling of indices
and rates commutes with every state operation, hence with a step. Shift and rate scaling are two
cases. -/

namespace Sys2Proof.Machine

variable {s t u : State} {e : Edge} {rest : List Input} {i : Instr} {c l k : Nat} {f g : Nat → Nat}

/-- `f` on indices and `g` on rates keep the order of indices, and stretch every duration and every
rate by the same factor `k`. -/
structure Rescales (k : Nat) (f g : Nat → Nat) : Prop where
  pos : 0 < k
  le_iff : ∀ a b, f a ≤ f b ↔ a ≤ b
  sub : ∀ a b, f b - f a = k * (b - a)
  rate : ∀ n, g n = k * n

/-- Adding a constant to every index stretches nothing (R155 (a)). -/
theorem rescales_shift (c : Nat) : Rescales 1 (fun n => n + c) (fun fs => fs) where
  pos := Nat.one_pos
  le_iff _ _ := Nat.add_le_add_iff_right
  sub _ _ := by rw [Nat.add_sub_add_right, Nat.one_mul]
  rate n := (Nat.one_mul n).symm

/-- Multiplying every index and rate stretches both alike (R155 (b)). -/
theorem rescales_scale {k : Nat} (hk : 1 ≤ k) : Rescales k (fun n => k * n) (fun fs => k * fs) where
  pos := hk
  le_iff _ _ := Nat.mul_le_mul_left_iff hk
  sub a b := (Nat.mul_sub k b a).symm
  rate _ := rfl

/-! Durations and rates stretched alike are classified alike. -/

theorem phaseShort_stretch (hk : 0 < k) (fs d : Nat) :
    phaseShort (k * fs) (k * d) = phaseShort fs d := by
  rw [Bool.eq_iff_iff, phaseShort_iff, phaseShort_iff, Nat.mul_assoc, Nat.mul_left_comm 100,
    Nat.mul_lt_mul_left hk]

theorem phaseReset_stretch (hk : 0 < k) (fs d : Nat) :
    phaseReset (k * fs) (k * d) = phaseReset fs d := by
  rw [Bool.eq_iff_iff, phaseReset_iff, phaseReset_iff, Nat.mul_assoc, Nat.mul_left_comm 1500,
    Nat.mul_lt_mul_left hk]

theorem cellIsBit_stretch (hk : 0 < k) (fs d : Nat) :
    cellIsBit (k * fs) (k * d) = cellIsBit fs d := by
  rw [Bool.eq_iff_iff, cellIsBit_iff, cellIsBit_iff, Nat.mul_assoc, Nat.mul_left_comm 130,
    Nat.mul_le_mul_left_iff hk]

theorem lowLonger_stretch (hk : 0 < k) (dl dh : Nat) :
    lowLonger (k * dl) (k * dh) = lowLonger dl dh := by
  rw [Bool.eq_iff_iff, lowLonger_iff, lowLonger_iff, Nat.mul_lt_mul_left hk]

/-! What a rescaled state reads, where the register has a value. -/

/-- The event with its index rescaled. -/
def Edge.rescale (f : Nat → Nat) (e : Edge) : Edge := ⟨e.dir, f e.idx⟩

theorem Edge.rescale_idx (f : Nat → Nat) (e : Edge) : (Edge.rescale f e).idx = f e.idx := rfl

theorem readByteS_rescale (h : s.byteS.isSome = true) :
    (s.rescale f g).readByteS = f s.readByteS := by
  obtain ⟨b, hb⟩ := Option.isSome_iff_exists.mp h
  simp [State.rescale, State.readByteS, hb]

theorem readCellS_rescale (h : s.cellS.isSome = true) :
    (s.rescale f g).readCellS = f s.readCellS := by
  obtain ⟨b, hb⟩ := Option.isSome_iff_exists.mp h
  simp [State.rescale, State.readCellS, hb]

theorem readLowE_rescale (h : s.lowE.isSome = true) :
    (s.rescale f g).readLowE = f s.readLowE := by
  obtain ⟨b, hb⟩ := Option.isSome_iff_exists.mp h
  simp [State.rescale, State.readLowE, hb]

/-! Every state operation commutes with rescaling. -/

theorem emit_rescale (k : Kind) (a b : Nat) (v : Byte) :
    (s.rescale f g).emit k (f a) (f b) v = (s.emit k a b v).rescale f g := by
  simp [State.rescale, State.emit]

theorem captureByteS_rescale (h : s.cellS.isSome = true) :
    (s.rescale f g).captureByteS = s.captureByteS.rescale f g := by
  have hread := readCellS_rescale (f := f) (g := g) h
  rw [State.captureByteS, hread]
  cases hb : onByteBoundary s.bitCount <;> simp [State.rescale, State.captureByteS, hb]

theorem bitCell_rescale (b : Bool) (hc : s.cellS.isSome = true) (hl : s.lowE.isSome = true) :
    (s.rescale f g).bitCell b (Edge.rescale f e) = (s.bitCell b e).rescale f g := by
  have hcell := readCellS_rescale (s := s.emit .high s.readLowE e.idx 0) (f := f) (g := g) hc
  simp only [State.bitCell, State.emitHigh, State.emitCell, Edge.rescale_idx, readLowE_rescale hl,
    emit_rescale, hcell]
  rfl

/-- An operation on a rescaled state is the operation, rescaled, where the registers it reads have a
value. -/
theorem effect_rescale (hbyte : ∀ b, i = .highBitbyte b → s.byteS.isSome = true)
    (hlow : i = .lowShort ∨ i = .lowReset ∨ i = .lowAttn ∨ i = .lowSrq → s.cellS.isSome = true)
    (hhigh : (∃ b, i = .highBit b ∨ i = .highBitstart b ∨ i = .highBitbyte b) ∨
      i = .highStopcell ∨ i = .highStart ∨ i = .highStopidle ∨ i = .highIdle →
      s.cellS.isSome = true ∧ s.lowE.isSome = true) :
    effect i (Edge.rescale f e) (s.rescale f g) = (effect i e s).rescale f g := by
  cases i
  case seqSync | seqSkipSync | seqSkipLow | seqSkipHigh | seqDead | highIdle => rfl
  case lowShort =>
    have hc := hlow (by simp)
    have hcap := captureByteS_rescale (s := s.emit .low s.readCellS e.idx 0) (f := f) (g := g) hc
    simp only [effect, State.emitLowPhase, Edge.rescale_idx, readCellS_rescale hc, emit_rescale,
      hcap]
    rfl
  case lowReset | lowAttn | lowSrq =>
    have hc := hlow (by simp)
    simp only [effect, State.emitLowPhase, Edge.rescale_idx, readCellS_rescale hc, emit_rescale]
    rfl
  case highBit b =>
    obtain ⟨hc, hl⟩ := hhigh (by simp)
    simp only [effect, bitCell_rescale b hc hl]
    rfl
  case highBitstart b =>
    obtain ⟨hc, hl⟩ := hhigh (by simp)
    have hcell := readCellS_rescale (s := (s.bitCell b e).setBitCount 0) (f := f) (g := g) hc
    have hset : ((s.bitCell b e).rescale f g).setBitCount 0 =
        ((s.bitCell b e).setBitCount 0).rescale f g := rfl
    simp only [effect, bitCell_rescale b hc hl, State.emitCell, hset, hcell,
      Edge.rescale_idx, emit_rescale]
    rfl
  case highBitbyte b =>
    obtain ⟨hc, hl⟩ := hhigh (by simp)
    have hread := readByteS_rescale (f := f) (g := g) (hbyte b rfl)
    have hpay : ((s.bitCell b e).rescale f g).byte = (s.bitCell b e).byte := rfl
    simp only [effect, bitCell_rescale b hc hl, hread, hpay, Edge.rescale_idx,
      emit_rescale]
    rfl
  case highStopcell =>
    obtain ⟨hc, hl⟩ := hhigh (by simp)
    have hcell := readCellS_rescale (s := s.emit .high s.readLowE e.idx 0) (f := f) (g := g) hc
    simp only [effect, State.emitHigh, State.emitCell, Edge.rescale_idx, readLowE_rescale hl,
      emit_rescale, hcell]
    rfl
  case highStart =>
    obtain ⟨hc, hl⟩ := hhigh (by simp)
    simp only [effect, State.emitHigh, Edge.rescale_idx, readLowE_rescale hl, emit_rescale]
    rfl
  case highStopidle =>
    obtain ⟨hc, hl⟩ := hhigh (by simp)
    simp only [effect, readCellS_rescale hc, readLowE_rescale hl, emit_rescale]
    rfl

/-- A pass start on a rescaled state. -/
theorem startPass_rescale (hk : Rescales k f g) (fs : Nat) :
    startPass (g fs) (s.rescale f g) = (startPass fs s).rescale f g := by
  have hnew : (s.rescale f g).newPass (g fs) = (s.newPass fs).rescale f g := by
    simp [State.newPass, State.rescale, List.map_tail]
  have hzero : g fs = 0 ↔ fs = 0 := by
    rw [hk.rate, Nat.mul_eq_zero]
    have := hk.pos
    omega
  rw [startPass, startPass, hnew]
  by_cases h : fs = 0
  · rw [if_pos h, if_pos (hzero.mpr h)]
    rfl
  · rw [if_neg h, if_neg (mt hzero.mp h)]
    rfl

/-! The event is rescaled with the state. -/

theorem inOrder_rescale (hk : Rescales k f g) (idx : Nat) :
    (s.rescale f g).inOrder (f idx) = s.inOrder idx := by
  rw [Bool.eq_iff_iff, inOrder_iff, inOrder_iff]
  simp [State.rescale, hk.le_iff]

theorem input_rescale_edge (hi : s.input = .edge e :: rest) :
    (s.rescale f g).input = .edge (Edge.rescale f e) :: ((s.consume e rest).rescale f g).input := by
  simp only [State.rescale, hi]
  rfl

theorem State.Faces.rescale (hk : Rescales k f g) (h : s.Faces e rest) :
    (s.rescale f g).Faces (Edge.rescale f e) ((s.consume e rest).rescale f g).input where
  input := input_rescale_edge h.input
  order := (inOrder_rescale hk e.idx).trans h.order

theorem State.LowEnds.rescale (hk : Rescales k f g) (h : s.LowEnds e rest c) :
    (s.rescale f g).LowEnds (Edge.rescale f e) ((s.consume e rest).rescale f g).input (f c) where
  faces := h.faces.rescale hk
  phase := h.phase
  dir := h.dir
  cellS := by simp [State.rescale, h.cellS]
  le := (hk.le_iff _ _).mpr h.le

theorem State.CellEnds.rescale (hk : Rescales k f g) (h : s.CellEnds e rest c l) :
    (s.rescale f g).CellEnds (Edge.rescale f e) ((s.consume e rest).rescale f g).input (f c)
      (f l) where
  faces := h.faces.rescale hk
  phase := h.phase
  dir := h.dir
  cellS := by simp [State.rescale, h.cellS]
  lowE := by simp [State.rescale, h.lowE]
  le₁ := (hk.le_iff _ _).mpr h.le₁
  le₂ := (hk.le_iff _ _).mpr h.le₂

theorem selectLow_rescale (hk : Rescales k f g) (h : s.LowEnds e rest c) :
    selectLow (s.rescale f g) (f e.idx) = selectLow s e.idx := by
  have hfs : (s.rescale f g).fs = k * s.fs := hk.rate s.fs
  have hdl : (s.rescale f g).lowSoFar (f e.idx) = k * s.lowSoFar e.idx := by
    rw [h.lowSoFar_eq, ← hk.sub]
    exact (h.rescale hk).lowSoFar_eq
  have hn : (s.rescale f g).bitCount = s.bitCount := rfl
  rw [selectLow_eq, selectLow_eq, hfs, hdl, hn, phaseShort_stretch hk.pos,
    phaseReset_stretch hk.pos]

theorem selectHigh_rescale (hk : Rescales k f g) (h : s.CellEnds e rest c l) :
    selectHigh (s.rescale f g) (f e.idx) = selectHigh s e.idx := by
  have hfs : (s.rescale f g).fs = k * s.fs := hk.rate s.fs
  have hdl : (s.rescale f g).dl = k * s.dl := by
    rw [h.dl_eq, ← hk.sub]
    exact (h.rescale hk).dl_eq
  have hdh : (s.rescale f g).dh (f e.idx) = k * s.dh e.idx := by
    rw [h.dh_eq, ← hk.sub]
    exact (h.rescale hk).dh_eq
  have hdt : (s.rescale f g).dt (f e.idx) = k * s.dt e.idx := by
    rw [h.dt_eq, ← hk.sub]
    exact (h.rescale hk).dt_eq
  have hn : (s.rescale f g).bitCount = s.bitCount := rfl
  rw [selectHigh_eq, selectHigh_eq, hfs, hdl, hdh, hdt, hn, phaseShort_stretch hk.pos,
    phaseShort_stretch hk.pos, cellIsBit_stretch hk.pos, lowLonger_stretch hk.pos]

/-- The rescaled event is accepted and selects the same operation. -/
theorem select_rescale (hk : Rescales k f g) (hI : s.Inv) (hf : s.Faces e rest) :
    (s.rescale f g).accepts (Edge.rescale f e) = true ∧
      select (s.rescale f g) (Edge.rescale f e) = select s e := by
  have hp : (s.rescale f g).phase = s.phase := rfl
  have hd : (Edge.rescale f e).dir = e.dir := rfl
  by_cases hlow : s.phase = .low ∧ e.dir = .rise
  · obtain ⟨c, h⟩ := hI.lowEnds hf hlow.1 hlow.2
    refine ⟨(h.rescale hk).accepts, ?_⟩
    rw [select_low_rise h.phase h.dir, select_low_rise (hp.trans h.phase) (hd.trans h.dir)]
    exact selectLow_rescale hk h
  · by_cases hhigh : s.phase = .high ∧ e.dir = .fall
    · obtain ⟨c, l, h⟩ := hI.cellEnds hf hhigh.1 hhigh.2
      refine ⟨(h.rescale hk).accepts, ?_⟩
      rw [select_high_fall h.phase h.dir, select_high_fall (hp.trans h.phase) (hd.trans h.dir)]
      exact selectHigh_rescale hk h
    · refine ⟨(hf.rescale hk).accepts_other hlow hhigh, ?_⟩
      rw [← decode_assemble, ← decode_assemble, assemble_other hlow hhigh,
        assemble_other (s := s.rescale f g) (e := Edge.rescale f e) hlow hhigh, hp, hd]

/-- A step is refused only on an event that is not accepted. -/
theorem of_step_refused {r : Refusal} (h : step s = .refused r) :
    r = .nonMonotonicIndex ∧ ∃ e rest, s.input = .edge e :: rest ∧ s.accepts e = false := by
  cases hi : s.input with
  | nil =>
    rw [step_wait hi] at h
    cases h
  | cons x rest =>
    cases x with
    | start fs =>
      rw [step_start hi] at h
      cases h
    | edge e =>
      cases ha : s.accepts e with
      | true =>
        rw [step_event hi ha] at h
        cases h
      | false =>
        rw [step_refused hi ha] at h
        cases h
        exact ⟨rfl, e, rest, rfl, ha⟩

/-- Rescaling commutes with a step, for next states and refusals. -/
theorem step_rescale (hk : Rescales k f g) (hI : s.Inv) (hF : s.FramingInv) :
    (∀ t, step s = .next t → step (s.rescale f g) = .next (t.rescale f g)) ∧
      (∀ r, step s = .refused r → step (s.rescale f g) = .refused r) := by
  constructor
  · intro t ht
    rcases step_next ht with ⟨hi, rfl⟩ | ⟨fs, rest, hi, rfl⟩ | ⟨e, rest, hi, ha, rfl⟩
    · exact step_wait (by simp [State.rescale, hi])
    · have hi' : (s.rescale f g).input = .start (g fs) :: (s.rescale f g).input.tail := by
        simp [State.rescale, hi]
      rw [step_start hi', startPass_rescale hk]
    · have hf := faces_of_accepts hi ha
      obtain ⟨hacc, hsel⟩ := select_rescale hk hI hf
      obtain ⟨hbyte, hlow, hhigh⟩ :=
        noRegisterIsReadBeforeItHasAValue s _ hI hF (fetch_select hi ha)
      rw [step_event (hf.rescale hk).input hacc, hsel]
      exact congrArg _ (effect_rescale (s := s.consume e rest) hbyte hlow hhigh)
  · intro r hr
    obtain ⟨rfl, e, rest, hi, ha⟩ := of_step_refused hr
    have hord : s.inOrder e.idx = false := by
      rw [← Bool.not_eq_true]
      intro ho
      rw [hI.accepts ⟨hi, ho⟩] at ha
      cases ha
    refine step_refused (input_rescale_edge hi) ?_
    rw [State.accepts, Bool.and_eq_false_iff]
    exact .inl ((inOrder_rescale hk e.idx).trans hord)

/-- Settles O50. -/
theorem stepCommutesWithShift : Obligations.StepCommutesWithShift := by
  unfold Obligations.StepCommutesWithShift
  exact fun c s hI hF => step_rescale (rescales_shift c) hI hF

/-- Settles O51. -/
theorem stepCommutesWithScaling : Obligations.StepCommutesWithScaling := by
  unfold Obligations.StepCommutesWithScaling
  exact fun k s hk hI hF => step_rescale (rescales_scale hk) hI hF

end Sys2Proof.Machine
end

section
/-! The block with the 18-state counter (spec/43_framing_fsm_and_laws.md section 5, R150): folding
commutes with every state operation, hence with a step. -/

namespace Sys2Proof.Machine

variable {s t u : State} {e : Edge} {rest : List Input} {i : Instr} {n : Int}

/-- What an operation of the 18-state block does to the state in which its event is consumed. -/
def effectFolded (i : Instr) (e : Edge) (t : State) : State :=
  match i with
  | .highBit g => (t.bitCellFolded g e).beginCell e.idx
  | .highBitstart g => (((t.bitCellFolded g e).setBitCount 0).emitCell .start e 0).beginCell e.idx
  | .highBitbyte g =>
    ((t.bitCellFolded g e).emit .byte t.readByteS e.idx (t.bitCellFolded g e).byte).beginCell e.idx
  | i => effect i e t

theorem execFolded_eq_onEdge (i : Instr) (s : State) :
    execFolded i s = onEdge s (effectFolded i) := by
  cases i <;> rfl

/-! The predicates of the counter do not tell a count from its fold. -/

theorem onByteBoundary_foldCount : onByteBoundary (foldCount n) = onByteBoundary n := by
  rw [Bool.eq_iff_iff, onByteBoundary_iff, onByteBoundary_iff, foldCount_emod]

theorem srqPosition_foldCount : srqPosition (foldCount n) = srqPosition n := by
  rw [Bool.eq_iff_iff, srqPosition_iff, srqPosition_iff, foldCount_eq_eight]

theorem counterIdle_foldCount : counterIdle (foldCount n) = counterIdle n := by
  rw [Bool.eq_iff_iff, counterIdle_iff, counterIdle_iff, foldCount_eq_neg_one]

theorem byteCompletes_foldCount : byteCompletes (foldCount n) = byteCompletes n := by
  have h := foldCount_emod (n := n)
  rw [Bool.eq_iff_iff, byteCompletes_iff, byteCompletes_iff]
  omega

theorem select_fold (s : State) (e : Edge) : select s.fold e = select s e :=
  select_congr rfl rfl rfl rfl srqPosition_foldCount counterIdle_foldCount byteCompletes_foldCount

/-! Every state operation commutes with folding. -/

theorem captureByteS_fold : s.fold.captureByteS = s.captureByteS.fold := by
  have hb : onByteBoundary s.fold.bitCount = onByteBoundary s.bitCount := onByteBoundary_foldCount
  rw [State.captureByteS, hb]
  rfl

theorem bitCellFolded_fold (hn : -1 ≤ s.bitCount) (g : Bool) :
    s.fold.bitCellFolded g e = (s.bitCell g e).fold := by
  have hsucc : succCount s.fold.bitCount = foldCount (s.bitCount + 1) := (foldCount_succ hn).symm
  have hcount : (s.fold.bitCellFolded g e).bitCount = foldCount (s.bitCount + 1) := hsucc
  apply State.ext
  case bitCount => exact hcount
  all_goals rfl

/-- An operation of the 18-state block on a folded state is the operation, folded. -/
theorem effectFolded_fold (hn : -1 ≤ s.bitCount) :
    effectFolded i e s.fold = (effect i e s).fold := by
  cases i
  case highBit g | highBitstart g | highBitbyte g =>
    simp only [effectFolded, bitCellFolded_fold hn]
    rfl
  case lowShort =>
    have hcap := captureByteS_fold (s := s.emitLowPhase .low e)
    exact congrArg (fun t => t.endLow e.idx) hcap
  all_goals rfl

theorem startPass_fold (fs : Nat) (s : State) : startPass fs s.fold = startPass fs s := by
  unfold startPass
  split_ifs <;> rfl

/-- Settles O53: the folded state fetches the same operation, and its effect is the fold. -/
theorem foldedBlockBehavesTheSame : Obligations.FoldedBlockBehavesTheSame := by
  unfold Obligations.FoldedBlockBehavesTheSame
  intro s hI
  constructor
  · intro t ht
    rcases step_next ht with ⟨hi, rfl⟩ | ⟨fs, rest, hi, rfl⟩ | ⟨e, rest, hi, ha, rfl⟩
    · simp only [stepFolded, fetch_nil (s := t.fold) hi]
    · simp only [stepFolded, fetch_start (s := s.fold) hi, startPass_fold]
    · simp only [stepFolded, fetch_select (s := s.fold) hi ha, select_fold, execFolded_eq_onEdge,
        onEdge_edge (s := s.fold) hi]
      exact congrArg _ (effectFolded_fold (s := s.consume e rest) hI.count)
  · intro r hr
    obtain ⟨rfl, e, rest, hi, ha⟩ := of_step_refused hr
    simp only [stepFolded, fetch_refused (s := s.fold) hi ha]

end Sys2Proof.Machine
end

section
/-! Passes (spec/43_framing_fsm_and_laws.md section 7, spec/60_exceptions.md): a pass is its start
and one step per event, defined as long as the events are in order, and its output only grows. -/

namespace Sys2Proof.Machine

variable {s t : State} {e : Edge} {es : List Edge}

/-! ## Runs -/

variable {f : State → Host.Outcome State Fault Refusal}

theorem iterate_succ_next (h : f s = .next t) (n : Nat) : iterate f (n + 1) s = iterate f n t := by
  simp [iterate, h]

/-- A property every step keeps holds at the end of a run. -/
theorem iterate_induction {P : State → Prop} (hstep : ∀ s t, P s → f s = .next t → P t) (n : Nat)
    (hs : P s) (ht : iterate f n s = .next t) : P t := by
  induction n generalizing s with
  | zero =>
    cases ht
    exact hs
  | succ n ih =>
    cases h : f s with
    | next u =>
      rw [iterate_succ_next h] at ht
      exact ih (hstep s u hs h) ht
    | fault x => simp [iterate, h] at ht
    | refused x => simp [iterate, h] at ht

theorem iterate_add (m n : Nat) (ht : iterate f m s = .next t) :
    iterate f (m + n) s = iterate f n t := by
  induction m generalizing s with
  | zero =>
    cases ht
    rw [Nat.zero_add]
  | succ m ih =>
    cases h : f s with
    | next u =>
      rw [iterate_succ_next h] at ht
      rw [Nat.add_right_comm, iterate_succ_next h, ih ht]
    | fault x => simp [iterate, h] at ht
    | refused x => simp [iterate, h] at ht

/-- A run has an output exactly where it ends in a next state. -/
theorem observation_eq_some {o : Host.Outcome State Fault Refusal} {out : List Ann} :
    observation o = some out ↔ ∃ t, o = .next t ∧ t.out = out := by
  cases o <;> simp [observation]

/-- The state a pass is in after its start. -/
def started (fs : Nat) (events : List Edge) : State := startPass fs (State.loaded fs events)

theorem pass_eq (fs : Nat) (events : List Edge) :
    pass fs events = iterate step events.length (started fs events) := by
  have hi : (State.loaded fs events).input = .start fs :: events.map .edge := rfl
  exact iterate_succ_next (step_start hi) events.length

theorem started_inv (fs : Nat) (events : List Edge) : (started fs events).Inv := inv_startPass _ _

theorem started_input (fs : Nat) (events : List Edge) :
    (started fs events).input = events.map .edge := by
  unfold started startPass
  split_ifs <;> rfl

theorem started_lastIdx (fs : Nat) (events : List Edge) : (started fs events).lastIdx = none := by
  unfold started startPass
  split_ifs <;> rfl

/-! ## A pass is defined exactly on ordered events -/

/-- The precondition of R31, event by event. -/
theorem edgesOrdered_cons (e : Edge) (es : List Edge) :
    edgesOrdered (e :: es) = (es.head?.all (fun f => Nat.ble e.idx f.idx) && edgesOrdered es) := by
  cases es <;> simp [edgesOrdered]

/-- A run over events is defined exactly where they are in order behind the previous event. -/
theorem isSome_observation_iterate (hI : s.Inv) (hi : s.input = es.map .edge) :
    (observation (iterate step es.length s)).isSome =
      (es.head?.all (fun e => s.inOrder e.idx) && edgesOrdered es) := by
  induction es generalizing s with
  | nil => rfl
  | cons e es ih =>
    have hi' : s.input = .edge e :: es.map .edge := hi
    cases ho : s.inOrder e.idx with
    | true =>
      obtain ⟨t, ht, hti, htl⟩ := everyOrderedEventIsDecoded s e _ hI ⟨hi', ho⟩
      rw [List.length_cons, iterate_succ_next ht, ih (hI.step ht) hti, edgesOrdered_cons]
      have hord : t.inOrder = fun idx => Nat.ble e.idx idx := by
        funext idx
        simp [State.inOrder, htl]
      rw [hord, List.head?_cons, Option.all_some, ho, Bool.true_and]
    | false =>
      have ha : s.accepts e = false := by simp [State.accepts, ho]
      simp [iterate, step_refused hi' ha, observation, ho]

/-- Settles O46: after the start no event has come, so the first one is in order. -/
theorem passIsDefinedIffOrdered : Obligations.PassIsDefinedIffOrdered := by
  unfold Obligations.PassIsDefinedIffOrdered
  intro fs events
  rw [pass_eq, isSome_observation_iterate (started_inv fs events) (started_input fs events)]
  cases events <;> simp [State.inOrder, started_lastIdx]

/-! ## What a run over events keeps -/

/-- Only events wait in the input. -/
def State.EdgesOnly (s : State) : Prop := ∃ es : List Edge, s.input = es.map .edge

/-- Where only events wait, a step waits or runs the selected operation on one. -/
theorem State.EdgesOnly.step (h : s.EdgesOnly) (ht : step s = .next t) :
    t.EdgesOnly ∧ (t = s ∨ ∃ e rest, s.input = .edge e :: rest ∧
      t = effect (select s e) e (s.consume e rest)) := by
  obtain ⟨es, hi⟩ := h
  cases es with
  | nil =>
    rw [step_wait hi] at ht
    cases ht
    exact ⟨⟨[], hi⟩, .inl rfl⟩
  | cons e es =>
    obtain ⟨-, rfl⟩ := of_step_event hi ht
    exact ⟨⟨es, by simp⟩, .inr ⟨e, _, hi, rfl⟩⟩

/-- A run over events only appends records. -/
theorem out_prefix_of_iterate {n : Nat} (h : s.EdgesOnly) (ht : iterate step n s = .next t) :
    s.out <+: t.out := by
  have hkeep : ∀ u w, u.EdgesOnly ∧ s.out <+: u.out → step u = .next w →
      w.EdgesOnly ∧ s.out <+: w.out := by
    rintro u w ⟨hu, hp⟩ hw
    obtain ⟨hw', rfl | ⟨e, rest, -, rfl⟩⟩ := hu.step hw
    · exact ⟨hw', hp⟩
    · refine ⟨hw', hp.trans ?_⟩
      rw [effect_out]
      exact List.prefix_append _ _
  exact (iterate_induction hkeep n ⟨h, List.prefix_refl _⟩ ht).2

/-- A run over events in FAULT emits nothing. -/
theorem out_of_iterate_fault {n : Nat} (h : s.EdgesOnly) (hp : s.phase = .fault)
    (ht : iterate step n s = .next t) : t.out = s.out := by
  have hkeep : ∀ u w, u.EdgesOnly ∧ u.phase = .fault ∧ u.out = s.out → step u = .next w →
      w.EdgesOnly ∧ w.phase = .fault ∧ w.out = s.out := by
    rintro u w ⟨hu, hup, huo⟩ hw
    obtain ⟨hw', rfl | ⟨e, rest, -, rfl⟩⟩ := hu.step hw
    · exact ⟨hw', hup, huo⟩
    · have hskip : u.Skips e := .inr (.inl hup)
      rw [hskip.effect_eq] at hw' ⊢
      exact ⟨hw', hup, huo⟩
  exact (iterate_induction hkeep n ⟨h, hp, rfl⟩ ht).2.2

/-- Settles O18: the pass is defined (O46), and in FAULT nothing is emitted. -/
theorem faultedPassEmitsNothing : Obligations.FaultedPassEmitsNothing := by
  unfold Obligations.FaultedPassEmitsNothing
  intro events ho
  have hdef : (observation (pass 0 events)).isSome = true :=
    (passIsDefinedIffOrdered 0 events).trans ho
  obtain ⟨out, hout⟩ := Option.isSome_iff_exists.mp hdef
  obtain ⟨t, ht, rfl⟩ := observation_eq_some.mp hout
  rw [pass_eq] at ht
  rw [hout, out_of_iterate_fault ⟨events, started_input 0 events⟩ rfl ht, started, startPass_out]

/-! ## Later events only append -/

/-- The state with more input behind what waits. -/
def State.extend (l : List Input) (s : State) : State := { s with input := s.input ++ l }

/-- An operation does not look at the input behind its event. -/
theorem effect_extend (i : Instr) (e : Edge) (l : List Input) (u : State) :
    effect i e (u.extend l) = (effect i e u).extend l := by
  cases i <;> rfl

/-- A step on an event does not look at the input behind it. -/
theorem step_extend {rest : List Input} (l : List Input) (hi : s.input = .edge e :: rest)
    (ht : step s = .next t) : step (s.extend l) = .next (t.extend l) := by
  obtain ⟨ha, rfl⟩ := of_step_event hi ht
  have hi' : (s.extend l).input = .edge e :: (rest ++ l) := by simp [State.extend, hi]
  have ha' : (s.extend l).accepts e = true := (accepts_congr rfl rfl rfl rfl).trans ha
  have hsel : select (s.extend l) e = select s e := select_congr rfl rfl rfl rfl rfl rfl rfl
  have hcons : (s.extend l).consume e (rest ++ l) = (s.consume e rest).extend l := rfl
  rw [step_event hi' ha', hsel, hcons, effect_extend]

/-- A run over events does not look at the input behind them. -/
theorem iterate_extend (l : List Input) (hi : s.input = es.map .edge)
    (ht : iterate step es.length s = .next t) :
    t.input = [] ∧ iterate step es.length (s.extend l) = .next (t.extend l) := by
  induction es generalizing s with
  | nil =>
    cases ht
    exact ⟨hi, rfl⟩
  | cons e es ih =>
    cases hu : step s with
    | next u =>
      rw [List.length_cons, iterate_succ_next hu] at ht
      obtain ⟨-, rfl⟩ := of_step_event hi hu
      rw [List.length_cons, iterate_succ_next (step_extend l hi hu)]
      exact ih (by simp) ht
    | fault x => simp [iterate, hu] at ht
    | refused x => simp [iterate, hu] at ht

theorem started_append (fs : Nat) (events more : List Edge) :
    started fs (events ++ more) = (started fs events).extend (more.map .edge) := by
  unfold started startPass State.loaded
  split_ifs <;> simp [State.extend, State.newPass, State.raiseConfigError, State.initialise]

/-- Settles O47: after the first events the run is the shorter pass with the others waiting, and
from there records are only appended. -/
theorem laterEventsOnlyAppend : Obligations.LaterEventsOnlyAppend := by
  unfold Obligations.LaterEventsOnlyAppend
  intro fs events more out out' h h'
  obtain ⟨t, ht, rfl⟩ := observation_eq_some.mp h
  obtain ⟨t', ht', rfl⟩ := observation_eq_some.mp h'
  rw [pass_eq] at ht ht'
  obtain ⟨hin, hrun⟩ := iterate_extend (more.map .edge) (started_input fs events) ht
  rw [started_append, List.length_append, iterate_add _ _ hrun] at ht'
  have hmore : (t.extend (more.map .edge)).EdgesOnly := ⟨more, by simp [State.extend, hin]⟩
  have happend : (t.extend (more.map .edge)).out <+: t'.out := out_prefix_of_iterate hmore ht'
  exact happend

end Sys2Proof.Machine
end

section
/-! Simulation of the block by its variants (spec/43_framing_fsm_and_laws.md section 4,
spec/92_eei_decisions.md D11): a relation that every pair of steps keeps gives the same observed
output. -/

namespace Sys2Proof.Machine

variable {s t u v : State} {e : Edge} {rest : List Input} {i : Instr}

/-! ## Simulation -/

/-- Two outcomes of the same kind, related where they are states. -/
def OutcomeRel (R : State → State → Prop) (a b : Host.Outcome State Fault Refusal) : Prop :=
  match a, b with
  | .next s, .next v => R s v
  | .refused x, .refused y => x = y
  | _, _ => False

section
variable {R : State → State → Prop} {f g : State → Host.Outcome State Fault Refusal}

/-- A relation every pair of steps keeps, a run keeps. -/
theorem iterate_rel (h : ∀ s v, R s v → OutcomeRel R (f s) (g v)) (n : Nat) (hR : R s v) :
    OutcomeRel R (iterate f n s) (iterate g n v) := by
  induction n generalizing s v with
  | zero => exact hR
  | succ n ih =>
    have hstep := h s v hR
    revert hstep
    rw [iterate, iterate]
    cases f s <;> cases g v <;> intro hstep
    case next.next => exact ih hstep
    case refused.refused => exact hstep
    all_goals exact hstep.elim

/-- Related outcomes are observed alike, up to `F`. -/
theorem OutcomeRel.observation_eq {F : List Ann → List Ann} {a b : Host.Outcome State Fault Refusal}
    (hR : ∀ s v, R s v → F s.out = F v.out) (h : OutcomeRel R a b) :
    (observation a).map F = (observation b).map F := by
  cases a <;> cases b
  case next.next => simp [observation, hR _ _ h]
  case refused.refused => rfl
  all_goals exact h.elim

end

/-! ## Steps under a reading -/

/-- What an operation does under a reading, to the state in which its event is consumed. -/
def effectReading (r : Reading) (i : Instr) (e : Edge) (t : State) : State :=
  match i with
  | .lowReset =>
    if r.resetClearsFraming then ((t.emitLowPhase .reset e).framingReset).endLow e.idx
    else effect .lowReset e t
  | .highBitstart g =>
    if r.bitstartEmitsBit then effect (.highBitstart g) e t
    else ((((t.emitHigh e).shiftIn (bitOf g)).setBitCount 0).emitCell .start e 0).beginCell e.idx
  | i => effect i e t

theorem execReading_edge (r : Reading) (hi : s.input = .edge e :: rest) :
    execReading r i s = .next (effectReading r i e (s.consume e rest)) := by
  cases i
  case lowReset =>
    simp only [execReading, effectReading]
    split_ifs
    · exact onEdge_edge
        (f := fun e t => ((t.emitLowPhase .reset e).framingReset).endLow e.idx) hi
    · exact exec_edge hi
  case highBitstart g =>
    simp only [execReading, effectReading]
    split_ifs
    · exact exec_edge hi
    · exact onEdge_edge (f := fun e t =>
        ((((t.emitHigh e).shiftIn (bitOf g)).setBitCount 0).emitCell .start e 0).beginCell e.idx) hi
  all_goals simp only [execReading, effectReading, exec_edge hi]

/-- A step under a reading and a step of the block keep a relation, where they see the same input
and accept the same events, and waiting, a pass start and an accepted event keep it. -/
theorem outcomeRel_stepReading {R : State → State → Prop} {r : Reading} (hi : s.input = v.input)
    (ha : ∀ e, s.accepts e = v.accepts e) (wait : R s v)
    (start : ∀ fs, R (startPass fs s) (startPass fs v))
    (event : ∀ e rest, v.input = .edge e :: rest → v.accepts e = true →
      R (effectReading r (select s e) e (s.consume e rest))
        (effect (select v e) e (v.consume e rest))) :
    OutcomeRel R (stepReading r s) (step v) := by
  cases hv : v.input with
  | nil =>
    rw [step_wait hv]
    simp only [stepReading, fetch_nil (hi.trans hv)]
    exact wait
  | cons x rest =>
    cases x with
    | start fs =>
      rw [step_start hv]
      simp only [stepReading, fetch_start (hi.trans hv)]
      exact start fs
    | edge e =>
      cases hacc : v.accepts e with
      | true =>
        rw [step_event hv hacc]
        simp only [stepReading, fetch_select (hi.trans hv) ((ha e).trans hacc),
          execReading_edge r (hi.trans hv)]
        exact event e rest hv hacc
      | false =>
        rw [step_refused hv hacc]
        simp only [stepReading, fetch_refused (hi.trans hv) ((ha e).trans hacc)]
        rfl

/-! ## The other reading of the start bit (D11) -/

/-- The state with another output. -/
def State.withOut (o : List Ann) (s : State) : State := { s with out := o }

@[simp] theorem withOut_out (o : List Ann) (s : State) : (s.withOut o).out = o := rfl

/-- The records other than `Bit`. -/
def notBits (out : List Ann) : List Ann := out.filter (fun a => a.kind ≠ .bit)

/-- The same state but for `Bit` records in the output. -/
def SameButBits (s v : State) : Prop := ∃ o, s = v.withOut o ∧ notBits o = notBits v.out

/-- An operation does not look at the output. -/
theorem effect_withOut (i : Instr) (e : Edge) (o : List Ann) (u : State) :
    effect i e (u.withOut o) = (effect i e u).withOut (o ++ records i e u) := by
  have hout : (effect i e (u.withOut o)).out = o ++ records i e u := by
    rw [effect_out]
    cases i <;> rfl
  apply State.ext
  case out => exact hout
  all_goals cases i <;> rfl

theorem sameButBits_effect {o : List Ann} (ho : notBits o = notBits u.out) :
    SameButBits (effectReading ⟨false, false⟩ i e (u.withOut o)) (effect i e u) := by
  have key : SameButBits (effect i e (u.withOut o)) (effect i e u) := by
    refine ⟨o ++ records i e u, effect_withOut i e o u, ?_⟩
    rw [effect_out, notBits, notBits, List.filter_append, List.filter_append]
    exact congrArg (· ++ _) ho
  cases i
  case highBitstart g =>
    refine ⟨o ++ [⟨.high, u.readLowE, e.idx, 0⟩, ⟨.start, u.readCellS, e.idx, 0⟩], ?_, ?_⟩
    · have hout : (effectReading ⟨false, false⟩ (.highBitstart g) e (u.withOut o)).out =
          o ++ [⟨.high, u.readLowE, e.idx, 0⟩] ++ [⟨.start, u.readCellS, e.idx, 0⟩] := rfl
      apply State.ext
      case out => simpa using hout
      all_goals rfl
    · have ho' : o.filter (fun a => a.kind ≠ .bit) = u.out.filter (fun a => a.kind ≠ .bit) := ho
      simp only [effect_out, records, notBits, List.filter_append, ho']
      simp
  all_goals exact key

/-- Settles O49: the two blocks run in states that differ in `Bit` records only. -/
theorem bitstartReadingChangesBitRecordsOnly :
    Obligations.BitstartReadingChangesBitRecordsOnly := by
  unfold Obligations.BitstartReadingChangesBitRecordsOnly
  intro fs events
  have hstep : ∀ s v, SameButBits s v →
      OutcomeRel SameButBits (stepReading ⟨false, false⟩ s) (step v) := by
    rintro _ v ⟨o, rfl, ho⟩
    refine outcomeRel_stepReading rfl (fun e => accepts_congr rfl rfl rfl rfl) ⟨o, rfl, ho⟩ ?_ ?_
    · intro fs
      have hstart : startPass fs (v.withOut o) = startPass fs v := by
        unfold startPass
        split_ifs <;> rfl
      exact ⟨(startPass fs v).out, hstart, rfl⟩
    · intro e rest _ _
      have hsel : select (v.withOut o) e = select v e := select_congr rfl rfl rfl rfl rfl rfl rfl
      rw [hsel]
      exact sameButBits_effect (u := v.consume e rest) ho
  refine OutcomeRel.observation_eq (F := notBits) ?_ (iterate_rel hstep _ ⟨_, rfl, rfl⟩)
  rintro _ v ⟨o, rfl, ho⟩
  exact ho

/-! ## The block whose global reset clears the framing state (R147) -/

/-- The state with another accumulator. -/
def State.withByte (b : Byte) (s : State) : State := { s with byte := b }

/-- Two accumulators agree on the bits that a counter at `n` has counted. -/
def AgreeBelow (n : Int) (b b' : Byte) : Prop :=
  ∀ j : Nat, j < 8 → (j : Int) < n → b.getLsbD j = b'.getLsbD j

theorem agreeBelow_of_nonpos {n : Int} (hn : n ≤ 0) (b b' : Byte) : AgreeBelow n b b' := by
  intro j _ hjn
  omega

/-- One more bit shifted into both is one more bit they agree on. -/
theorem AgreeBelow.shift {n : Int} {b b' : Byte} (h : AgreeBelow n b b') (g : Bool) :
    AgreeBelow (n + 1) (((b <<< 1) &&& Config.byteMask) ||| bitOf g)
      (((b' <<< 1) &&& Config.byteMask) ||| bitOf g) := by
  intro j hj hjn
  cases j with
  | zero => rw [shift_getLsbD_zero, shift_getLsbD_zero]
  | succ j =>
    rw [shift_getLsbD_succ _ _ _ hj, shift_getLsbD_succ _ _ _ hj]
    exact h j (by omega) (by omega)

/-- With eight bits counted the accumulators are equal. -/
theorem AgreeBelow.eq {n : Int} {b b' : Byte} (h : AgreeBelow n b b') (hn : 8 ≤ n) : b = b' := by
  apply BitVec.eq_of_getLsbD_eq
  intro j hj
  exact h j hj (by omega)

/-- The states differ in bits of `byte` that the counter has not counted. -/
def SameCounted (s v : State) : Prop := ∃ b, s = v.withByte b ∧ AgreeBelow v.bitCount b v.byte

/-- A global reset has just cleared the framing state of the variant block. -/
structure JustCleared (s v : State) : Prop where
  eq : s = v.framingReset
  phase : v.phase = .high
  long : phaseShort v.fs v.dl = false
  reset : phaseReset v.fs v.dl = true

/-- The states of the variant block and of the block in step. -/
def ResetRel (s v : State) : Prop := v.Inv ∧ (SameCounted s v ∨ JustCleared s v)

/-- An event that is skipped is skipped under every reading. -/
theorem State.Skips.effectReading_eq (h : v.Skips e) (r : Reading) (t : State) :
    effectReading r (select v e) e t = t := by
  rcases h with ⟨hp, hd⟩ | hp | ⟨hp, hd⟩ | ⟨hp, hd⟩
  · rw [select_sync_rise hp hd]; rfl
  · rw [select_fault hp]; rfl
  · rw [select_low_fall hp hd]; rfl
  · rw [select_high_rise hp hd]; rfl

/-- A low phase from states that agree: only a global reset tells the blocks apart. -/
theorem resetRel_selectLow {b : Byte} (hb : AgreeBelow v.bitCount b v.byte) :
    SameCounted (effectReading .resetClears (selectLow v e.idx) e ((v.consume e rest).withByte b))
        (effect (selectLow v e.idx) e (v.consume e rest)) ∨
      JustCleared (effectReading .resetClears (selectLow v e.idx) e ((v.consume e rest).withByte b))
        (effect (selectLow v e.idx) e (v.consume e rest)) := by
  have hdl : (effect (selectLow v e.idx) e (v.consume e rest)).dl = v.lowSoFar e.idx := by
    obtain ⟨-, hc, hl⟩ := Machine.effect_selectLow v (v.consume e rest) e e.idx
    simp [State.dl, State.readLowE, State.readCellS, hc, hl, State.lowSoFar]
  have hsel := selectsLow v e.idx
  generalize selectLow v e.idx = i at hdl hsel ⊢
  cases hsel with
  | short => exact .inl ⟨b, rfl, hb⟩
  | reset hs hr => exact .inr ⟨rfl, rfl, by rw [hdl]; exact hs, by rw [hdl]; exact hr⟩
  | srq | attn => exact .inl ⟨0, rfl, agreeBelow_of_nonpos (by decide : (-1 : Int) ≤ 0) _ _⟩

/-- A cell from states that agree: where a `Byte` is emitted, eight bits are counted and agree. -/
theorem sameCounted_selectHigh {b : Byte} (hI : v.Inv) (hb : AgreeBelow v.bitCount b v.byte) :
    SameCounted (effectReading .resetClears (selectHigh v e.idx) e ((v.consume e rest).withByte b))
      (effect (selectHigh v e.idx) e (v.consume e rest)) := by
  have hcount := hI.count
  have hsel := selectsHigh v e.idx
  generalize selectHigh v e.idx = i at hsel ⊢
  cases hsel with
  | bitbyte _ _ hn hz =>
    have hshift := hb.shift (lowLonger v.dl (v.dh e.idx))
    have hpay := hshift.eq (by omega)
    refine ⟨_, ?_, hshift⟩
    apply State.ext
    case out =>
      simpa [effectReading, State.withByte, records, State.readByteS, State.readCellS,
        State.readLowE] using hpay
    all_goals rfl
  | bit => exact ⟨_, rfl, hb.shift _⟩
  | stopcell => exact ⟨b, rfl, hb⟩
  | bitstart => exact ⟨_, rfl, agreeBelow_of_nonpos le_rfl _ _⟩
  | start => exact ⟨b, rfl, agreeBelow_of_nonpos le_rfl _ _⟩
  | stopidle | idle =>
    exact ⟨0, rfl, agreeBelow_of_nonpos (by decide : (-1 : Int) ≤ 0) _ _⟩

/-- Outside a bit cell the selection at the end of a cell does not look at the counter. -/
theorem selectHigh_framingReset {idx : Nat} (ht : cellIsBit v.fs (v.dt idx) = false) :
    selectHigh v.framingReset idx = selectHigh v idx := by
  have ht' : cellIsBit v.framingReset.fs (v.framingReset.dt idx) = false := ht
  rw [selectHigh_eq, selectHigh_eq, ht, ht']
  rfl

/-- The cell of a global reset is no bit cell, and what ends it makes the counters equal again. -/
theorem JustCleared.sameCounted (h : JustCleared s v) {c l : Nat} (hends : v.CellEnds e rest c l) :
    selectHigh s e.idx = selectHigh v e.idx ∧
      SameCounted (effectReading .resetClears (selectHigh v e.idx) e (s.consume e rest))
        (effect (selectHigh v e.idx) e (v.consume e rest)) := by
  obtain ⟨rfl, -, hs, hr⟩ := h
  have ht : cellIsBit v.fs (v.dt e.idx) = false := by
    have hle := hends.le₂
    rw [hends.dl_eq, phaseReset_iff] at hr
    rw [hends.dt_eq, cellIsBit_false_iff]
    omega
  refine ⟨selectHigh_framingReset ht, ?_⟩
  have hsel := selectsHigh v e.idx
  generalize selectHigh v e.idx = i at hsel ⊢
  cases hsel with
  | start => exact ⟨0, rfl, agreeBelow_of_nonpos le_rfl _ _⟩
  | idle => exact ⟨0, rfl, agreeBelow_of_nonpos (by decide : (-1 : Int) ≤ 0) _ _⟩
  | bitstart _ ht' | bitbyte _ ht' | bit _ ht' => simp [ht] at ht'
  | stopcell _ _ hs' | stopidle _ hs' => simp [hs] at hs'

/-- An accepted event from states that agree. -/
theorem resetRel_event_of_sameCounted {b : Byte} (hI : v.Inv)
    (hb : AgreeBelow v.bitCount b v.byte) :
    SameCounted (effectReading .resetClears (select v e) e ((v.consume e rest).withByte b))
        (effect (select v e) e (v.consume e rest)) ∨
      JustCleared (effectReading .resetClears (select v e) e ((v.consume e rest).withByte b))
        (effect (select v e) e (v.consume e rest)) := by
  rcases event_cases v e with ⟨hp, hd⟩ | hs | ⟨hp, hd⟩ | ⟨hp, hd⟩
  · rw [select_sync_fall hp hd]
    exact .inl ⟨b, rfl, hb⟩
  · rw [hs.effectReading_eq, hs.effect_eq]
    exact .inl ⟨b, rfl, hb⟩
  · rw [select_low_rise hp hd]
    exact resetRel_selectLow hb
  · rw [select_high_fall hp hd]
    exact .inl (sameCounted_selectHigh hI hb)

/-- An accepted event just after a global reset. -/
theorem resetRel_event_of_justCleared (hI : v.Inv) (hf : v.Faces e rest) (h : JustCleared s v) :
    SameCounted (effectReading .resetClears (select s e) e (s.consume e rest))
        (effect (select v e) e (v.consume e rest)) ∨
      JustCleared (effectReading .resetClears (select s e) e (s.consume e rest))
        (effect (select v e) e (v.consume e rest)) := by
  have hp : s.phase = .high := by
    rw [h.eq]
    exact h.phase
  cases hd : e.dir with
  | fall =>
    obtain ⟨c, l, hends⟩ := hI.cellEnds hf h.phase hd
    obtain ⟨hsel, hrel⟩ := h.sameCounted hends
    rw [select_high_fall hp hd, select_high_fall h.phase hd, hsel]
    exact .inl hrel
  | rise =>
    have hs : s.Skips e := .inr (.inr (.inr ⟨hp, hd⟩))
    have hv : v.Skips e := .inr (.inr (.inr ⟨h.phase, hd⟩))
    rw [hs.effectReading_eq, hv.effect_eq]
    exact .inr ⟨by rw [h.eq]; rfl, h.phase, h.long, h.reset⟩

/-- A step of the variant block and a step of the block keep the relation. -/
theorem outcomeRel_resetClears (h : ResetRel s v) :
    OutcomeRel ResetRel (stepReading .resetClears s) (step v) := by
  obtain ⟨hI, ⟨b, rfl, hb⟩ | hclear⟩ := h
  · refine outcomeRel_stepReading rfl (fun e => accepts_congr rfl rfl rfl rfl)
      ⟨hI, .inl ⟨b, rfl, hb⟩⟩ ?_ ?_
    · intro fs
      have hstart : startPass fs (v.withByte b) = startPass fs v := by
        unfold startPass
        split_ifs <;> rfl
      exact ⟨inv_startPass fs v, .inl ⟨(startPass fs v).byte, hstart, fun _ _ _ => rfl⟩⟩
    · intro e rest hi ha
      have hsel : select (v.withByte b) e = select v e := select_congr rfl rfl rfl rfl rfl rfl rfl
      rw [hsel]
      exact ⟨hI.step (step_event hi ha),
        resetRel_event_of_sameCounted hI hb⟩
  · have heq := hclear.eq
    refine outcomeRel_stepReading (by rw [heq]; rfl) (fun e => ?_) ⟨hI, .inr hclear⟩ ?_ ?_
    · rw [heq]
      exact accepts_congr rfl rfl rfl rfl
    · intro fs
      have hstart : startPass fs s = startPass fs v := by
        rw [heq]
        unfold startPass
        split_ifs <;> rfl
      exact ⟨inv_startPass fs v, .inl ⟨(startPass fs v).byte, hstart, fun _ _ _ => rfl⟩⟩
    · intro e rest hi ha
      exact ⟨hI.step (step_event hi ha),
        resetRel_event_of_justCleared hI (faces_of_accepts hi ha) hclear⟩

/-- Related states have the same output. -/
theorem ResetRel.out_eq (h : ResetRel s v) : s.out = v.out := by
  obtain ⟨-, ⟨b, rfl, -⟩ | hclear⟩ := h
  · rfl
  · rw [hclear.eq]
    rfl

/-- Settles O48: the two blocks run in related states, which have the same output. -/
theorem resetVariantEmitsTheSameRecords : Obligations.ResetVariantEmitsTheSameRecords := by
  unfold Obligations.ResetVariantEmitsTheSameRecords
  intro fs events
  have hloaded : ResetRel (State.loaded fs events) (State.loaded fs events) := by
    obtain ⟨hI, -⟩ := resetMeetsTheInvariants
    exact ⟨⟨hI.faultPhase, hI.faultRate, hI.count, hI.idleByte, hI.sync, hI.low, hI.high⟩,
      .inl ⟨0, rfl, fun _ _ _ => rfl⟩⟩
  have hrun := iterate_rel (fun s v h => outcomeRel_resetClears (s := s) (v := v) h)
    (events.length + 1) hloaded
  have hobs : (observation (passWith (stepReading .resetClears) fs events)).map id =
      (observation (pass fs events)).map id := hrun.observation_eq fun _ _ h => h.out_eq
  simpa using hobs

end Sys2Proof.Machine
end
